-- ==== Sys2Proof/Word.lean ====
section
/-! DEFINITION. The bit types of the block: one-bit values and the 8-bit event word. -/

namespace Sys2Proof

/-- A one-bit value: TICK_FLAG, PWM_OE (R9) and the `P` operand (R62). -/
abbrev Bit := BitVec 1

/-- An event word `w[7:0]` (R60). -/
abbrev EventWord := BitVec 8

end Sys2Proof
end

