-- ==== Sys2Proof/Config.lean ====
section
/-! DEFINITION. The configuration record CFG (R8), its named checks (R10), the widths it fixes (R9) and the example
configuration that `State.reset` carries (log 1). -/

namespace Sys2Proof

/-- CFG (R8). Every field is OPEN: the model takes it as a parameter and no claim fixes one. -/
structure Cfg where
  /-- THRESH: FINE events per tick. -/
  thresh : Nat
  /-- STEP_MS: consumed ticks per fade step. -/
  stepMs : Nat
  /-- N: length of the LUT. -/
  n : Nat
  /-- LUT[0..N-1], read-only. -/
  lut : List Nat
  /-- DUTY_W: width of the duty register and of a LUT entry. -/
  dutyW : Nat
  /-- T_FINE: period of the fine event, in an unnamed unit of time. No event reads it (log 14). -/
  tFine : Nat
deriving DecidableEq, Repr

/-- The checks WF1 to WF7 of R10. -/
inductive CfgCheck where
  /-- WF1: `THRESH >= 1`. -/
  | wf1
  /-- WF2: `STEP_MS >= 1`. -/
  | wf2
  /-- WF3: `N >= 1`. -/
  | wf3
  /-- WF4: `LUT` has exactly `N` entries. -/
  | wf4
  /-- WF5: `LUT[0] = 0`. -/
  | wf5
  /-- WF6: `LUT` is monotonically nondecreasing. -/
  | wf6
  /-- WF7: every entry fits in `DUTY_W` bits. -/
  | wf7
deriving DecidableEq, Repr

/-- EX-A of 95_test_vectors.md, the configuration of `State.reset`.
DESIGN CHOICE, unsafe for a claim that rests on it (log 1): the spec leaves every parameter OPEN. -/
def Cfg.exampleA : Cfg :=
  { thresh := 3, stepMs := 2, n := 4, lut := [0, 10, 100, 255], dutyW := 8, tFine := 1 }

end Sys2Proof
end

