-- ==== Sys2Proof/Syntax.lean ====
section
/-! DEFINITION. The events of the block as syntax: one constructor per row of spec/opcode_table.json (R13, R61). -/

namespace Sys2Proof

/-- An event (R13, R61). The block has no instructions of another kind (R28). -/
inductive Instr where
  /-- FINE: one invocation of the Tick Generator (R80). -/
  | fine
  /-- POLL(p): one iteration of the Fade Controller, `p` the raw sensor pin level (R62, R100). -/
  | poll (p : Bit)
  /-- RESET: power-on or device reset (R170). -/
  | reset
deriving DecidableEq, Repr

end Sys2Proof
end

