-- ==== Sys2Proof/Decode.lean ====
section
/-! DEFINITION. The decoder (R60 to R65), total on all 256 words and rejecting by name; then the encoder from the same
format; then traces of words (R60), the machine-readable table (R69) and the host's `decodeTableWord`.
The encoding is the spec's own choice (D2; log 22). -/

namespace Sys2Proof

/-- Why a word is INVALID (R64, R65). -/
inductive DecodeReject where
  /-- `w[5:1] != 0b00000` (R63). -/
  | reservedBitsSet
  /-- `OPC = 0b00` (R61). -/
  | reservedOpcode
  /-- `P = 1` in a FINE or RESET word (R62). -/
  | operandBitSet
deriving DecidableEq, Repr

/-- `OPC = w[7:6]` (R60). -/
def opcField (w : EventWord) : BitVec 2 := w.extractLsb' 6 2

/-- `RSV = w[5:1]` (R60). -/
def rsvField (w : EventWord) : BitVec 5 := w.extractLsb' 1 5

/-- `P = w[0]` (R60). -/
def pField (w : EventWord) : Bit := w.extractLsb' 0 1

/-- `decode(w[7:0])` (R64). -/
def decode (w : EventWord) : Except DecodeReject Instr :=
  if rsvField w ≠ 0b00000#5 then .error .reservedBitsSet
  else if opcField w = 0b00#2 then .error .reservedOpcode
  else if opcField w = 0b01#2 then
    if pField w = 0 then .ok .fine else .error .operandBitSet
  else if opcField w = 0b10#2 then .ok (.poll (pField w))
  else
    if pField w = 0 then .ok .reset else .error .operandBitSet

/-- The word `{OPC, RSV, P}` (R60). -/
def packWord (opc : BitVec 2) (p : Bit) : EventWord := opc ++ 0b00000#5 ++ p

/-- The word of an event (R61, R62). -/
def encode : Instr → EventWord
  | .fine => packWord 0b01 0
  | .poll p => packWord 0b10 p
  | .reset => packWord 0b11 0

/-- A trace of events as a byte string, first byte first (R60). -/
def encodeTrace (es : List Instr) : List EventWord := es.map encode

/-- The events of a byte string, or the index of the first INVALID word and why it is invalid (R65). -/
def decodeTrace : List EventWord → Except (Nat × DecodeReject) (List Instr)
  | [] => .ok []
  | w :: ws =>
    match decode w with
    | .error why => .error (0, why)
    | .ok i =>
      match decodeTrace ws with
      | .error (k, why) => .error (k + 1, why)
      | .ok es => .ok (i :: es)

/-- One row of opcode_table.json (R69): `match`, `mask` and the event, written with `P = 0`. -/
structure OpcodeRow where
  pattern : EventWord
  mask : EventWord
  event : Instr
deriving DecidableEq, Repr

/-- opcode_table.json (R69). -/
def opcodeTable : List OpcodeRow :=
  [ { pattern := 0x40, mask := 0xFF, event := .fine },
    { pattern := 0x80, mask := 0xFE, event := .poll 0 },
    { pattern := 0xC0, mask := 0xFF, event := .reset } ]

/-- The row's event, with the `P` field of the word as its operand where it has one (R69). -/
def OpcodeRow.instrOf (r : OpcodeRow) (w : EventWord) : Instr :=
  match r.event with
  | .fine => .fine
  | .poll _ => .poll (pField w)
  | .reset => .reset

/-- The decoder built from the table alone (R69). -/
def decodeByTable (w : EventWord) : Option Instr :=
  (opcodeTable.find? fun r => w &&& r.mask == r.pattern).map fun r => r.instrOf w

/-- What the decoder reads from a row's bits, numbered as opcode_table.json numbers them (R69).
Every event word is exactly one byte (R66): another number of bits is no event. -/
def decodeTableWord (nbits w : Nat) : Option Instr :=
  if nbits = 8 then
    match decode (BitVec.ofNat 8 w) with
    | .ok i => some i
    | .error _ => none
  else none

end Sys2Proof
end

