-- ==== Sys2Proof/Machine/State.lean ====
section
/-! DEFINITION. The block state (R20), the machine's state around it, the reasons a step can stop, and reset. -/

namespace Sys2Proof.Machine

/-- The block state `S`: the tuple of six registers (R20). Nothing else in the block is state. -/
structure Regs where
  /-- TICK_FLAG (R21): 1 when a tick is pending. -/
  tickFlag : Bit
  /-- SUB_CNT (R22): FINE events since the last tick event. -/
  subCnt : Nat
  /-- STEP_CNT (R23): consumed ticks since the last completed fade step. -/
  stepCnt : Nat
  /-- FADE_IDX (R24). -/
  fadeIdx : Nat
  /-- PWM_DUTY (R25): the last duty written. -/
  pwmDuty : Nat
  /-- PWM_OE (R26): 1 when the output pin is driven. -/
  pwmOe : Bit
deriving DecidableEq, Repr

/-- The block, with the two things a run is fixed by that are not block state (R27): the configuration, and the
event words that the environment has still to deliver (R60, R161). -/
structure State where
  /-- The six registers (R20). -/
  regs : Regs
  /-- CFG (R8): fixed for the whole run (R27, R42, R179). -/
  cfg : Cfg
  /-- The rest of the trace, first word first (R60). The MODEL's own field (log 3). -/
  pending : List EventWord
deriving DecidableEq, Repr

/-- "Error taxonomy is empty by design" (R140): the block raises no exception, so there is no fault. -/
inductive Fault
deriving DecidableEq, Repr

/-- The cases to which the spec gives no meaning (R142), each safe: nothing is proved of the run beyond one. -/
inductive Refusal where
  /-- Raised by no arm of `exec`: every event has its meaning. Safe. -/
  | notModelled (mnemonic : String)
  /-- R142(a): `step` meets a configuration that fails this check of R10. Safe (D5). -/
  | illFormedConfig (failed : CfgCheck)
  /-- R142(b): `step` meets an INVALID event word (R65). Safe (D3). -/
  | invalidWord (w : EventWord) (why : DecodeReject)
  /-- R142(c): `step` meets registers that violate R31 to R35 before any RESET (R36). Safe (D21). -/
  | launchState
  /-- R142(d): POLL reads the LUT at an index outside [0, N-1] (R41). Safe; no well-formed run reaches it. -/
  | lutIndex (i : Nat)
deriving DecidableEq, Repr

/-- The registers after RESET (R171 to R176). The zeros of TICK_FLAG, SUB_CNT, PWM_DUTY and PWM_OE are the spec's own
decision (D8, D9, D10; log 2). -/
def Regs.reset : Regs :=
  { tickFlag := 0, subCnt := 0, stepCnt := 0, fadeIdx := 0, pwmDuty := 0, pwmOe := 0 }

/-- The machine right after reset, under any configuration and before any word of this trace is delivered. -/
def State.resetWith (c : Cfg) (ws : List EventWord) : State :=
  { regs := Regs.reset, cfg := c, pending := ws }

/-- The machine right after reset, nothing to deliver. Its configuration is a DESIGN CHOICE (log 1). -/
def State.reset : State := State.resetWith Cfg.exampleA []

end Sys2Proof.Machine
end

