-- ==== Sys2Proof/Machine/Flags.lean ====
section
/-! DEFINITION. Every compare and one-bit result the rules compute. TICK_FLAG is the block's only flag (R21); no
carry, overflow, zero or sign flag exists. -/

namespace Sys2Proof.Machine

/-- The threshold compare of FINE, `c >= THRESH` (R82, D7; log 11). -/
def thresholdReached (c : Cfg) (count : Nat) : Bool := decide (c.thresh ≤ count)

/-- The pacing compare of POLL's step 3, `c < STEP_MS` (R103). -/
def stillPacing (c : Cfg) (count : Nat) : Bool := decide (count < c.stepMs)

/-- Is a tick pending (R21, R101)? -/
def tickPending (r : Regs) : Bool := r.tickFlag == 1

/-- Output gating (R108): the enable bit for a duty. -/
def outputEnable (duty : Nat) : Bit := if 0 < duty then 1 else 0

end Sys2Proof.Machine
end

