-- ==== Sys2Proof/Machine/Operands.lean ====
section
/-! DEFINITION. The one operand, the pin level, decoded (R62, R105), and the fade-index sequencer it selects (R106). -/

namespace Sys2Proof.Machine

/-- Door State: `open = (p == 0)` (R105). Electrical low is door open. -/
def doorOpen (p : Bit) : Bool := p == 0

/-- The fade-index sequencer (R106): one up, clamped at `n - 1`, when the door is open; one down, clamped at 0,
when it is closed. It never wraps. -/
def sequencer (n : Nat) (isOpen : Bool) (i : Nat) : Nat :=
  if isOpen then (if i + 1 < n then i + 1 else i)
  else (if 0 < i then i - 1 else i)

end Sys2Proof.Machine
end

