-- ==== Sys2Proof/Machine/Ops.lean ====
section
/-! DEFINITION. The primitives of the pseudocode (R12): the LUT read, the duty register write, and one operation per
register write. The block has no exception to take and nothing to return from (R140, R148, R149), so no operation
takes one. -/

namespace Sys2Proof.Machine

/-- `LutRead(i)` (R41): the whole entry, defined for `0 <= i <= N-1`. No side effect. -/
def lutRead (c : Cfg) (i : Nat) : Option Nat := if i < c.n then c.lut[i]? else none

/-- TICK_FLAG <- 1, the only value FINE writes there (R29, R82). -/
def setTick (r : Regs) : Regs := { r with tickFlag := 1 }

/-- TICK_FLAG <- 0, the only value POLL writes there (R29, R102). -/
def clearTick (r : Regs) : Regs := { r with tickFlag := 0 }

/-- SUB_CNT <- `v` (R80). -/
def writeSubCnt (v : Nat) (r : Regs) : Regs := { r with subCnt := v }

/-- STEP_CNT <- `v` (R103). -/
def writeStepCnt (v : Nat) (r : Regs) : Regs := { r with stepCnt := v }

/-- FADE_IDX <- `i` (R106). -/
def writeFadeIdx (i : Nat) (r : Regs) : Regs := { r with fadeIdx := i }

/-- PWM_OE <- `b` (R108). -/
def writeOutputEnable (b : Bit) (r : Regs) : Regs := { r with pwmOe := b }

/-- `DutyWrite(d)` (R43): the whole PWM_DUTY register. -/
def dutyWrite (d : Nat) (r : Regs) : Regs := { r with pwmDuty := d }

/-- Steps 8 and 9 of POLL, committed together (R108, R109, R110; log 12). -/
def commitOutputs (d : Nat) (r : Regs) : Regs := dutyWrite d (writeOutputEnable (outputEnable d) r)

/-- The six writes of RESET, in the order of R170. -/
def resetWrites (r : Regs) : Regs :=
  writeOutputEnable 0 (dutyWrite 0 (writeFadeIdx 0 (writeStepCnt 0 (writeSubCnt 0 (clearTick r)))))

/-- The same run with other registers. -/
def withRegs (s : State) (r : Regs) : State := { s with regs := r }

end Sys2Proof.Machine
end

