-- ==== Sys2Proof/Machine/FadeController.lean ====
section
/-! DEFINITION. The Fade Controller: POLL(p) (R100 to R112), as one atomic event (log 12). -/

namespace Sys2Proof.Machine

/-- Steps 5 to 9, from registers already consumed and with STEP_CNT reset: the completed fade step (R104 to R110). -/
def completeFadeStep (p : Bit) (s : State) (r : Regs) : Host.Outcome State Fault Refusal :=
  let i := sequencer s.cfg.n (doorOpen p) r.fadeIdx
  match lutRead s.cfg i with
  | some d => .next (withRegs s (commitOutputs d (writeFadeIdx i r)))
  | none => .refused (.lutIndex i)

/-- The meaning of POLL(p) (R100): idle (R101), pace (R103) or a completed fade step (R104). -/
def execPoll (p : Bit) (s : State) : Host.Outcome State Fault Refusal :=
  if tickPending s.regs then
    let r := clearTick s.regs
    let count := r.stepCnt + 1
    if stillPacing s.cfg count then .next (withRegs s (writeStepCnt count r))
    else completeFadeStep p s (writeStepCnt 0 r)
  else .next s

end Sys2Proof.Machine
end

