-- ==== Sys2Proof/Machine/PowerOn.lean ====
section
/-! DEFINITION. RESET: power-on, the watchdog's reset or any other device reset (R160, R170). -/

namespace Sys2Proof.Machine

/-- The meaning of RESET (R170). It completes in every state, reads no CFG and leaves it as it is (R179). -/
def execReset (s : State) : Host.Outcome State Fault Refusal :=
  .next (withRegs s (resetWrites s.regs))

end Sys2Proof.Machine
end

