-- ==== Sys2Proof/Machine/TickGenerator.lean ====
section
/-! DEFINITION. The Tick Generator: FINE (R80 to R84). -/

namespace Sys2Proof.Machine

/-- FINE on the registers (R80): the increment is on naturals, without truncation (R81). -/
def fineRegs (c : Cfg) (r : Regs) : Regs :=
  let count := r.subCnt + 1
  if thresholdReached c count then setTick (writeSubCnt 0 r) else writeSubCnt count r

/-- The meaning of FINE (R80). It completes in every state. -/
def execFine (s : State) : Host.Outcome State Fault Refusal :=
  .next (withRegs s (fineRegs s.cfg s.regs))

end Sys2Proof.Machine
end

