-- ==== Sys2Proof/Machine/Dispatch.lean ====
section
/-! DEFINITION. One arm per event (R13): the three event rules are the whole behaviour of the block (R28). -/

namespace Sys2Proof.Machine

def exec (i : Instr) (s : State) : Host.Outcome State Fault Refusal :=
  match i with
  | .fine => Sys2Proof.Machine.execFine s
  | .poll p => Sys2Proof.Machine.execPoll p s
  | .reset => Sys2Proof.Machine.execReset s

end Sys2Proof.Machine
end

