-- ==== Sys2Proof/Machine/CfgChecks.lean ====
section
/-! DEFINITION. The configuration checks WF1 to WF7 (R10), the counter widths (R9) and the real-time figures (R190). -/

namespace Sys2Proof

/-- "monotonically nondecreasing" (WF6). -/
def lutNondecreasing : List Nat → Bool
  | [] => true
  | [_] => true
  | a :: b :: rest => decide (a ≤ b) && lutNondecreasing (b :: rest)

/-- Does `c` pass the check (R10)? -/
def Cfg.passes (c : Cfg) : CfgCheck → Bool
  | .wf1 => decide (1 ≤ c.thresh)
  | .wf2 => decide (1 ≤ c.stepMs)
  | .wf3 => decide (1 ≤ c.n)
  | .wf4 => decide (c.lut.length = c.n)
  | .wf5 => decide (c.lut.head? = some 0)
  | .wf6 => lutNondecreasing c.lut
  | .wf7 => c.lut.all fun v => decide (v ≤ 2 ^ c.dutyW - 1)

/-- The first check that `c` fails, in the order of R10; `none` for an accepted configuration. -/
def Cfg.firstFailed (c : Cfg) : Option CfgCheck :=
  [CfgCheck.wf1, .wf2, .wf3, .wf4, .wf5, .wf6, .wf7].find? fun k => !c.passes k

/-- `ceil(log2 m)` for `m >= 1` (R9). -/
def ceilLog2 (m : Nat) : Nat :=
  if m ≤ 1 then 0 else Nat.log2 (m - 1) + 1

/-- The least width of SUB_CNT in an RTL realisation (R9). -/
def Cfg.subCntBits (c : Cfg) : Nat := ceilLog2 (c.thresh + 1)

/-- The least width of STEP_CNT in an RTL realisation (R9). -/
def Cfg.stepCntBits (c : Cfg) : Nat := ceilLog2 (c.stepMs + 1)

/-- The least width of FADE_IDX (register summary of 10_state.md). -/
def Cfg.fadeIdxBits (c : Cfg) : Nat := max 1 (ceilLog2 c.n)

/-- The period of tick events, `THRESH × T_FINE` (R190). -/
def Cfg.tickPeriod (c : Cfg) : Nat := c.thresh * c.tFine

/-- The period of completed fade steps when every tick is consumed in time (R190). -/
def Cfg.fadeStepPeriod (c : Cfg) : Nat := c.stepMs * c.tickPeriod

/-- The least time of a full fade from one endpoint to the other (R190). -/
def Cfg.fullFadeTime (c : Cfg) : Nat := (c.n - 1) * c.fadeStepPeriod

end Sys2Proof
end

