-- ==== Sys2Proof/Machine/Fetch.lean ====
section
/-! DEFINITION. What the environment delivers next, and the refusals of R142 that stand before an event. -/

namespace Sys2Proof.Machine

/-- R31 to R35 as a check of registers under a configuration (R36). R31 holds by the width of a `Bit`. -/
def launchOk (c : Cfg) (r : Regs) : Bool :=
  decide (r.subCnt < c.thresh) && decide (r.stepCnt < c.stepMs) && decide (r.fadeIdx < c.n) &&
    decide (lutRead c r.fadeIdx = some r.pwmDuty) && decide (r.pwmOe = outputEnable r.pwmDuty)

/-- May `i` be the next event of a run whose registers are `r`? RESET may start a run from anything; another event
needs a launch state (R36, R177; log 5). -/
def mayDeliver (c : Cfg) (r : Regs) (i : Instr) : Bool := decide (i = .reset) || launchOk c r

/-- What comes next. -/
inductive Delivery where
  /-- No meaning (R142). -/
  | refuse (why : Refusal)
  /-- No event: the trace is at its end and the block stays as it is (R30, R143; log 3). -/
  | silence
  /-- The event `i`, the rest of the trace after it. -/
  | event (i : Instr) (rest : List EventWord)
deriving DecidableEq, Repr

/-- The next delivery. The checks stand in this order: the configuration, the word, the registers (log 6). -/
def delivery (s : State) : Delivery :=
  match s.cfg.firstFailed with
  | some k => .refuse (.illFormedConfig k)
  | none =>
    match s.pending with
    | [] => if launchOk s.cfg s.regs then .silence else .refuse .launchState
    | w :: rest =>
      match decode w with
      | .error why => .refuse (.invalidWord w why)
      | .ok i => if mayDeliver s.cfg s.regs i then .event i rest else .refuse .launchState

/-- The state in which a delivered event runs: its word is no longer pending. -/
def takeWord (s : State) (rest : List EventWord) : State := { s with pending := rest }

/-- The state in which `w`, `nbits` wide, is the next word to be delivered, in place of the one that was. -/
def replaceNextWord (s : State) (nbits w : Nat) : State :=
  { s with pending := BitVec.ofNat 8 (w % 2 ^ nbits) :: s.pending.tail }

end Sys2Proof.Machine
end

