-- ==== Sys2Proof/Machine/Step.lean ====
section
/-! DEFINITION. One step: the next event of the trace, as one atomic transition (R12, R49). -/

namespace Sys2Proof.Machine

/-- One event delivered (R49), no event at the trace's end (log 3), or a refusal (R142). -/
def step (s : State) : Host.Outcome State Fault Refusal :=
  match delivery s with
  | .refuse why => .refused why
  | .silence => .next s
  | .event i rest => exec i (takeWord s rest)

/-- The word stored where `step` takes its next event from (log 4). -/
def State.withFetchWord (s : State) (nbits w : Nat) : State := replaceNextWord s nbits w

end Sys2Proof.Machine
end

