-- ==== Sys2Proof/Machine/Assembler.lean ====
section
/-! DEFINITION. The textual form of a trace (R67) and the pseudo-instructions (R68). Text is a list of characters.
The spelling is the spec's own choice (D2); what this file settles beyond it is in log 15. -/

namespace Sys2Proof

/-- The rows of R68, and the plain events of R67. -/
inductive Pseudo where
  /-- One line of R67. -/
  | event (i : Instr)
  /-- `fine K`. -/
  | fines (k : Nat)
  /-- `tick`. -/
  | tick
  /-- `poll D K`. -/
  | polls (p : Bit) (k : Nat)
  /-- `step D`. -/
  | step (p : Bit)
  /-- `step D K`. -/
  | steps (p : Bit) (k : Nat)
deriving DecidableEq, Repr

/-- `tick` (R68). -/
def tickEvents (c : Cfg) : List Instr := List.replicate c.thresh .fine

/-- The list `es`, `k` times over. -/
def repeated (k : Nat) (es : List Instr) : List Instr := (List.replicate k es).flatten

/-- `step D` (R68). -/
def stepEvents (c : Cfg) (p : Bit) : List Instr := repeated c.stepMs (tickEvents c ++ [.poll p])

/-- The expansion of a line (R68). -/
def Pseudo.expand (c : Cfg) : Pseudo → List Instr
  | .event i => [i]
  | .fines k => List.replicate k .fine
  | .tick => tickEvents c
  | .polls p k => List.replicate k (.poll p)
  | .step p => stepEvents c p
  | .steps p k => repeated k (stepEvents c p)

/-- A character between words of a line. -/
def isBlank (ch : Char) : Bool := ch == ' ' || ch == '\t' || ch == '\r'

/-- The words of a line: maximal runs without blanks; `acc` is the run being read. -/
def wordsFrom (acc : List Char) : List Char → List (List Char)
  | [] => if acc.isEmpty then [] else [acc]
  | ch :: rest =>
    if isBlank ch then (if acc.isEmpty then wordsFrom [] rest else acc :: wordsFrom [] rest)
    else wordsFrom (acc ++ [ch]) rest

/-- The words of a line, the comment from `;` on left out (R67). -/
def lineWords (line : List Char) : List (List Char) := wordsFrom [] (line.takeWhile (· != ';'))

/-- A decimal digit's value. -/
def digitValue (ch : Char) : Option Nat :=
  if '0'.toNat ≤ ch.toNat ∧ ch.toNat ≤ '9'.toNat then some (ch.toNat - '0'.toNat) else none

/-- Decimal digits read on top of `acc`. -/
def decimalFrom (acc : Nat) : List Char → Option Nat
  | [] => some acc
  | ch :: rest => (digitValue ch).bind fun v => decimalFrom (10 * acc + v) rest

/-- `K`, a decimal number with `K >= 1` (R68). -/
def countWord (w : List Char) : Option Nat :=
  if w.isEmpty then none else (decimalFrom 0 w).bind fun k => if 1 ≤ k then some k else none

/-- `D`, `open` or `closed` (R68). -/
def doorWord (w : List Char) : Option Bit :=
  if w = ['o', 'p', 'e', 'n'] then some 0
  else if w = ['c', 'l', 'o', 's', 'e', 'd'] then some 1
  else none

/-- The operand of a plain `poll`: `open`, `closed`, `0` or `1` (R67). -/
def levelWord (w : List Char) : Option Bit :=
  if w = ['0'] then some 0 else if w = ['1'] then some 1 else doorWord w

/-- The line with these words; `some none` for a blank line, `none` for a spelling that is refused (R67). -/
def parseWords : List (List Char) → Option (Option Pseudo)
  | [] => some none
  | [m] =>
    if m = ['f', 'i', 'n', 'e'] then some (some (.event .fine))
    else if m = ['r', 'e', 's', 'e', 't'] then some (some (.event .reset))
    else if m = ['t', 'i', 'c', 'k'] then some (some .tick)
    else none
  | [m, a] =>
    if m = ['f', 'i', 'n', 'e'] then (countWord a).map fun k => some (.fines k)
    else if m = ['p', 'o', 'l', 'l'] then (levelWord a).map fun p => some (.event (.poll p))
    else if m = ['s', 't', 'e', 'p'] then (doorWord a).map fun p => some (.step p)
    else none
  | [m, a, b] =>
    if m = ['p', 'o', 'l', 'l'] then (doorWord a).bind fun p => (countWord b).map fun k => some (.polls p k)
    else if m = ['s', 't', 'e', 'p'] then (doorWord a).bind fun p => (countWord b).map fun k => some (.steps p k)
    else none
  | _ => none

/-- The events of one line of text (R67, R68). -/
def assembleLine (c : Cfg) (line : List Char) : Option (List Instr) :=
  (parseWords (lineWords line)).map fun
    | none => []
    | some ps => ps.expand c

/-- The lines of a text; `acc` is the line being read. -/
def linesFrom (acc : List Char) : List Char → List (List Char)
  | [] => [acc]
  | ch :: rest => if ch = '\n' then acc :: linesFrom [] rest else linesFrom (acc ++ [ch]) rest

/-- The events of some lines, in order; one refused line refuses all (R67). -/
def assembleLines (c : Cfg) : List (List Char) → Option (List Instr)
  | [] => some []
  | l :: ls => (assembleLine c l).bind fun es => (assembleLines c ls).map fun rest => es ++ rest

/-- The transcriber (R67): the events of a text, or `none` where a line is refused. -/
def assemble (c : Cfg) (text : List Char) : Option (List Instr) := assembleLines c (linesFrom [] text)

/-- The first spelling of an event in the table of R67. -/
def spelling : Instr → List Char
  | .fine => ['f', 'i', 'n', 'e']
  | .poll p => ['p', 'o', 'l', 'l', ' '] ++ (if p = 0 then ['o', 'p', 'e', 'n'] else ['c', 'l', 'o', 's', 'e', 'd'])
  | .reset => ['r', 'e', 's', 'e', 't']

/-- A trace as text: one event per line (R67). -/
def transcript : List Instr → List Char
  | [] => []
  | i :: es => spelling i ++ '\n' :: transcript es

end Sys2Proof
end

