-- ==== Sys2Proof/Machine/Interleave.lean ====
section
/-! DEFINITION. The source's POLL as its nine steps, each an access of its own (R51), with FINE allowed between any
two of them: the design that the atomic POLL of R100 stands for (D12). Not part of `step`. -/

namespace Sys2Proof.Machine

/-- Where the source's POLL stands, with what it holds in its own variables. -/
inductive PollPhase where
  /-- Before step 1, the read of TICK_FLAG. -/
  | readFlag
  /-- Before step 2, the clear; the read saw 1. -/
  | clearFlag
  /-- Before step 3, the increment and the pacing compare. -/
  | countTick
  /-- Before step 4, the reset of STEP_CNT. -/
  | resetCount
  /-- Before step 5, the door read. -/
  | readDoor
  /-- Before step 6, the sequencer, with Door State. -/
  | moveIndex (isOpen : Bool)
  /-- Before step 7, the LUT lookup. -/
  | lookUp
  /-- Before step 8, the output enable, with the duty. -/
  | gateOutput (d : Nat)
  /-- Before step 9, the duty write, with the duty. -/
  | writeDuty (d : Nat)
  /-- After the last step. -/
  | finished
  /-- Step 7 read outside the LUT (R41). -/
  | outside (i : Nat)
deriving DecidableEq, Repr

/-- One access of the source's POLL(p), on the registers as they stand at that moment. -/
def pollAccess (c : Cfg) (p : Bit) (ph : PollPhase) (r : Regs) : PollPhase × Regs :=
  match ph with
  | .readFlag => (if tickPending r then .clearFlag else .finished, r)
  | .clearFlag => (.countTick, clearTick r)
  | .countTick =>
    if stillPacing c (r.stepCnt + 1) then (.finished, writeStepCnt (r.stepCnt + 1) r) else (.resetCount, r)
  | .resetCount => (.readDoor, writeStepCnt 0 r)
  | .readDoor => (.moveIndex (doorOpen p), r)
  | .moveIndex isOpen => (.lookUp, writeFadeIdx (sequencer c.n isOpen r.fadeIdx) r)
  | .lookUp =>
    match lutRead c r.fadeIdx with
    | some d => (.gateOutput d, r)
    | none => (.outside r.fadeIdx, r)
  | .gateOutput d => (.writeDuty d, writeOutputEnable (outputEnable d) r)
  | .writeDuty d => (.finished, dutyWrite d r)
  | .finished => (.finished, r)
  | .outside i => (.outside i, r)

/-- Whose turn it is between two accesses. -/
inductive Turn where
  /-- The interrupt runs: one whole FINE (R149). -/
  | interrupt
  /-- The main loop makes its next access. -/
  | mainLoop
deriving DecidableEq, Repr

/-- The source's POLL(p) under a schedule of turns. -/
def interleave (c : Cfg) (p : Bit) : List Turn → PollPhase × Regs → PollPhase × Regs
  | [], x => x
  | .interrupt :: ts, (ph, r) => interleave c p ts (ph, fineRegs c r)
  | .mainLoop :: ts, (ph, r) => interleave c p ts (pollAccess c p ph r)

end Sys2Proof.Machine
end

