-- ==== Sys2Proof/Machine/Trace.lean ====
section
/-! DEFINITION. Traces of events (R13) run by `exec`, what a completed run shows (R15, R85, R115, R118, R119), and the
trace with its idle POLLs left out (R158). The history is the reader's book-keeping: no event reads it. -/

namespace Sys2Proof.Machine

/-- A trace of events, each on the state the one before it left (R49). -/
def runEvents : List Instr → State → Host.Outcome State Fault Refusal
  | [], s => .next s
  | i :: es, s =>
    match exec i s with
    | .next s' => runEvents es s'
    | .fault f => .fault f
    | .refused why => .refused why

/-- A tick event: a FINE that reaches the threshold (R15, R82). -/
def isTickEvent (i : Instr) (s : State) : Bool :=
  match i with
  | .fine => thresholdReached s.cfg (s.regs.subCnt + 1)
  | .poll _ => false
  | .reset => false

/-- A tick event that finds TICK_FLAG = 1: its tick is lost (R84). -/
def isCoalesced (i : Instr) (s : State) : Bool := isTickEvent i s && tickPending s.regs

/-- A consumed tick: a POLL that finds TICK_FLAG = 1 (R15, R102). -/
def isConsumedTick (i : Instr) (s : State) : Bool :=
  match i with
  | .fine => false
  | .poll _ => tickPending s.regs
  | .reset => false

/-- An idle POLL: one that finds TICK_FLAG = 0 (R101). -/
def isIdlePoll (i : Instr) (s : State) : Bool :=
  match i with
  | .fine => false
  | .poll _ => !tickPending s.regs
  | .reset => false

/-- A completed fade step: a POLL that reaches step 4 (R15, R104). -/
def isFadeStep (i : Instr) (s : State) : Bool :=
  isConsumedTick i s && !stillPacing s.cfg (s.regs.stepCnt + 1)

/-- What happened since the most recent RESET (R85, R115, R118, R119). -/
structure History where
  /-- F: FINE events. -/
  fines : Nat
  /-- T: tick events. -/
  ticks : Nat
  /-- Tick events whose tick was lost (R84). -/
  coalesced : Nat
  /-- C: consumed ticks. -/
  consumed : Nat
  /-- The pin levels sampled by the completed fade steps, oldest first (R105). -/
  levels : List Bit
deriving DecidableEq, Repr

/-- Nothing since RESET. -/
def History.empty : History := { fines := 0, ticks := 0, coalesced := 0, consumed := 0, levels := [] }

/-- K: completed fade steps (R119). -/
def History.steps (h : History) : Nat := h.levels.length

/-- The history after `i` is delivered in `s`. -/
def History.after (h : History) (i : Instr) (s : State) : History :=
  match i with
  | .fine =>
    { h with
      fines := h.fines + 1
      ticks := h.ticks + (isTickEvent i s).toNat
      coalesced := h.coalesced + (isCoalesced i s).toNat }
  | .poll p =>
    { h with
      consumed := h.consumed + (isConsumedTick i s).toNat
      levels := h.levels ++ (if isFadeStep i s then [p] else []) }
  | .reset => History.empty

/-- The history of a trace from `s`, on top of `h`. -/
def historyOf : List Instr → State → History → History
  | [], _, h => h
  | i :: es, s, h =>
    match exec i s with
    | .next s' => historyOf es s' (h.after i s)
    | .fault _ => h
    | .refused _ => h

/-- The trace less the POLLs that find no tick: the variant that sleeps until a tick (R158). -/
def withoutIdlePolls : List Instr → State → List Instr
  | [], _ => []
  | i :: es, s =>
    if isIdlePoll i s then withoutIdlePolls es s
    else
      match exec i s with
      | .next s' => i :: withoutIdlePolls es s'
      | .fault _ => i :: es
      | .refused _ => i :: es

/-- The three registers a fade step writes for the outside: FADE_IDX, PWM_DUTY, PWM_OE (R118). -/
def fadeState (r : Regs) : Nat × Nat × Bit := (r.fadeIdx, r.pwmDuty, r.pwmOe)

end Sys2Proof.Machine
end

