-- ==== Sys2Proof/Machine/Ports.lean ====
section
/-! DEFINITION. The block's ports (R155) and the events of one instant: every serial order is admitted (R52, R146). -/

namespace Sys2Proof.Machine

/-- The input ports at one instant (R155). -/
structure Inputs where
  /-- `rst`: a RESET event. -/
  rst : Bit
  /-- `fine_evt`: one FINE event. -/
  fineEvt : Bit
  /-- `poll_evt`: one POLL event. -/
  pollEvt : Bit
  /-- `door_pin`: the raw sensor level. -/
  doorPin : Bit
deriving DecidableEq, Repr

/-- The output ports (R155). -/
structure Outputs where
  /-- `pwm_oe`. -/
  pwmOe : Bit
  /-- `pwm_duty`. -/
  pwmDuty : Nat
  /-- `tick_flag`, for observation only. -/
  tickFlag : Bit
deriving DecidableEq, Repr

/-- What the output ports show (R154, R155). -/
def outputsOf (r : Regs) : Outputs := { pwmOe := r.pwmOe, pwmDuty := r.pwmDuty, tickFlag := r.tickFlag }

/-- The events strobed at an instant, in the order the spec recommends to an RTL realisation: POLL before FINE
(D13), and RESET last, which dominates (D11). -/
def strobedEvents (x : Inputs) : List Instr :=
  (if x.pollEvt = 1 then [.poll x.doorPin] else []) ++ (if x.fineEvt = 1 then [.fine] else []) ++
    (if x.rst = 1 then [.reset] else [])

/-- `a` put at every place of a list. -/
def placements (a : Instr) : List Instr → List (List Instr)
  | [] => [[a]]
  | b :: bs => (a :: b :: bs) :: (placements a bs).map (b :: ·)

/-- Every serial order of some events; the first one is the order given. -/
def serialOrders : List Instr → List (List Instr)
  | [] => [[]]
  | a :: as => (serialOrders as).flatMap (placements a)

/-- The outcomes the model admits for one instant: one for each serial order (R52, R146; log 8). -/
def instantOutcomes (x : Inputs) (s : State) : List (Host.Outcome State Fault Refusal) :=
  (serialOrders (strobedEvents x)).map fun es => runEvents es s

end Sys2Proof.Machine
end

