-- ==== Sys2Proof/WellFormed.lean ====
section
/-! DEFINITION. Well-formedness: of an event as syntax, and of a configuration (R10). What makes an event WORD
ill-formed (R65) is in Decode.lean, and what makes a launch state ill-formed (R36) in Machine/Fetch.lean. -/

namespace Sys2Proof

/-- An event is well-formed whatever its operand: `P` admits both of its values (R62). -/
def Instr.wf : Instr → Bool
  | .fine => true
  | .poll _ => true
  | .reset => true

/-- A configuration is accepted when it fails no check of R10. -/
abbrev Cfg.WellFormed (c : Cfg) : Prop := c.firstFailed = none

end Sys2Proof
end

