-- ==== Sys2Proof/Safety.lean ====
section
/-! DEFINITION. What a safe run is, in the terms claims use: the invariants R31 to R35 under an accepted
configuration, and the states that a run reaches from RESET. -/

namespace Sys2Proof.Machine

/-- R32 to R35 of registers under a configuration. R31 is the type of the two one-bit registers. -/
structure Regs.Inv (c : Cfg) (r : Regs) : Prop where
  /-- R32: SUB_CNT <= THRESH - 1. -/
  subCnt_lt : r.subCnt < c.thresh
  /-- R33: STEP_CNT <= STEP_MS - 1. -/
  stepCnt_lt : r.stepCnt < c.stepMs
  /-- R34: FADE_IDX <= N - 1. -/
  fadeIdx_lt : r.fadeIdx < c.n
  /-- R35, first equation: PWM_DUTY = LUT[FADE_IDX]. -/
  duty_eq : c.lut[r.fadeIdx]? = some r.pwmDuty
  /-- R35, second equation: PWM_OE = (PWM_DUTY > 0 ? 1 : 0). -/
  gated : r.pwmOe = if 0 < r.pwmDuty then 1 else 0

/-- A well-formed state: an accepted configuration (R10) and registers that meet R31 to R35 (R36). -/
structure State.Inv (s : State) : Prop where
  cfg_wf : s.cfg.WellFormed
  regs_inv : s.regs.Inv s.cfg

/-- `s` is the state after the trace `es` from RESET under `c`, and `h` is what happened since the last RESET. -/
structure ReachedBy (c : Cfg) (es : List Instr) (s : State) (h : History) : Prop where
  cfg_wf : c.WellFormed
  run : runEvents es (State.resetWith c []) = .next s
  history : historyOf es (State.resetWith c []) History.empty = h

end Sys2Proof.Machine
end

