-- ==== Sys2Proof/Certificates/Slice0/Obligations.lean ====
section
/-! DEFINITION. The statements for the provers. Each docstring names the rules it formalises; where a rule carries the
spec's own mark [decision: ...] or [derived: ...], the docstring says so and the entry's basis is 'derived'.
Every statement ranges over every configuration: none rests on the one that `State.reset` carries (log 1). The words to
come, `pending`, are the model's own field (log 3). -/

open Sys2Proof Sys2Proof.Machine

/-! ### Words, traces and text -/

/-- Words written out bit by bit from the format of R60 and the opcode map of R61, the reserved fields zero, and one
word for each way of being INVALID (R62, R63), under the check that R64's pseudocode makes first (log 7). The encoding is
the spec's decision D2 (log 22). -/
def Obligations.WordsDecodeAsTheSpecWritesThem : Prop :=
  decode 0b01000000#8 = .ok .fine ∧ decode 0b10000000#8 = .ok (.poll 0) ∧
  decode 0b10000001#8 = .ok (.poll 1) ∧ decode 0b11000000#8 = .ok .reset ∧
  decode 0b00000000#8 = .error .reservedOpcode ∧ decode 0b00000001#8 = .error .reservedOpcode ∧
  decode 0b01000001#8 = .error .operandBitSet ∧ decode 0b11000001#8 = .error .operandBitSet ∧
  decode 0b10000010#8 = .error .reservedBitsSet ∧ decode 0b11111111#8 = .error .reservedBitsSet

/-- "Exactly four words are valid" (R64), each with the event R64 gives it. Decision D2 and the spec's derivation. -/
def Obligations.ExactlyFourWordsAreValid : Prop :=
  ∀ (w : EventWord) (i : Instr), decode w = .ok i ↔
    (w = 0x40#8 ∧ i = .fine) ∨ (w = 0x80#8 ∧ i = .poll 0) ∨ (w = 0x81#8 ∧ i = .poll 1) ∨ (w = 0xC0#8 ∧ i = .reset)

/-- "A decoder built from the table alone agrees with rule R64" (R69, the spec's derivation): the decoder answers a row
of the table exactly where the table's own match and mask do; and a word has eight bits, no other number (R66, decision
D2). The model's own: a number above a byte is read by its low byte, log 4 (DESIGN CHOICE). -/
def Obligations.TableDecoderAgreesWithDecode : Prop :=
  (∀ w : Nat, decodeTableWord 8 w = decodeByTable (BitVec.ofNat 8 w)) ∧
  (∀ nbits w : Nat, nbits ≠ 8 → decodeTableWord nbits w = none)

/-- Decode and encode agree on whole traces (R60, R64, R65; decisions D2, D3): every trace of events is read back as
itself, every valid byte string is the encoding of what it is read as, and a byte string is refused exactly at its first
INVALID word. -/
def Obligations.TraceDecodeInvertsEncode : Prop :=
  (∀ es : List Instr, decodeTrace (encodeTrace es) = .ok es) ∧
  (∀ (ws : List EventWord) (es : List Instr), decodeTrace ws = .ok es → encodeTrace es = ws) ∧
  (∀ (ws : List EventWord) (k : Nat) (why : DecodeReject), decodeTrace ws = .error (k, why) ↔
    ∃ (good : List Instr) (bad : EventWord) (rest : List EventWord),
      ws = encodeTrace good ++ bad :: rest ∧ good.length = k ∧ decode bad = .error why)

/-- The transcriber reads a trace written one event per line as that trace, takes the two other spellings of a POLL, and
leaves out a comment from `;` on and a blank line (R67, decision D2). Which characters are blanks (the space, the tab and
the carriage return, `isBlank`), and that a line ends at a line feed, are the model's own choice, not R67's: log 15
(DESIGN CHOICE). -/
def Obligations.TranscriptAssemblesBack : Prop :=
  (∀ (c : Cfg) (es : List Instr), assemble c (transcript es) = some es) ∧
  (∀ c : Cfg, assembleLine c ['p', 'o', 'l', 'l', ' ', '0'] = some [.poll 0] ∧
    assembleLine c ['p', 'o', 'l', 'l', ' ', '1'] = some [.poll 1]) ∧
  (∀ (c : Cfg) (line comment : List Char), assembleLine c (line ++ ';' :: comment) = assembleLine c line) ∧
  (∀ (c : Cfg) (line : List Char), (∀ ch ∈ line, isBlank ch = true) → assembleLine c line = some [])

/-! ### The Tick Generator -/

/-- R80: FINE has the word 0x40, completes in every state with the increment on naturals (R81), and is a tick event or
keeps its count (R83). No exception, no other register. The compare's `>=` is the spec's decision D7 (log 11). -/
def Obligations.FineCountsOrTicks : Prop :=
  encode .fine = 0x40#8 ∧
  ∀ s : State, exec .fine s = .next { s with regs :=
    if s.regs.subCnt + 1 ≥ s.cfg.thresh then { s.regs with subCnt := 0, tickFlag := 1 }
    else { s.regs with subCnt := s.regs.subCnt + 1 } }

/-- R84: a tick event that finds TICK_FLAG = 1 leaves it 1, and no count of the lost tick is kept: the state after it
is the state after the same tick event from TICK_FLAG = 0. However many FINEs follow with no POLL, from a state with a
tick pending only SUB_CNT moves, modulo THRESH: every further tick is lost. -/
def Obligations.CoalescedTicksLeaveNoTrace : Prop :=
  (∀ s : State, s.regs.tickFlag = 1 → s.cfg.thresh ≤ s.regs.subCnt + 1 →
    ∃ t, exec .fine s = .next t ∧ t.regs.tickFlag = 1 ∧
      exec .fine { s with regs := { s.regs with tickFlag := 0 } } = .next t) ∧
  (∀ (s : State) (n : Nat), s.Inv → s.regs.tickFlag = 1 →
    runEvents (List.replicate n .fine) s =
      .next { s with regs := { s.regs with subCnt := (s.regs.subCnt + n) % s.cfg.thresh } })

/-- R88: FINE reads only SUB_CNT and THRESH, and writes only SUB_CNT and TICK_FLAG. The FRAME of FINE: STEP_CNT,
FADE_IDX, PWM_DUTY, PWM_OE, the configuration with its LUT and the rest of the trace are as before. -/
def Obligations.FineReadsAndWritesOnlyItsOwn : Prop :=
  (∀ s t : State, exec .fine s = .next t →
    t.regs.stepCnt = s.regs.stepCnt ∧ t.regs.fadeIdx = s.regs.fadeIdx ∧ t.regs.pwmDuty = s.regs.pwmDuty ∧
    t.regs.pwmOe = s.regs.pwmOe ∧ t.cfg = s.cfg ∧ t.pending = s.pending ∧
    (∀ i, lutRead t.cfg i = lutRead s.cfg i)) ∧
  (∀ s₁ s₂ t₁ t₂ : State, s₁.regs.subCnt = s₂.regs.subCnt → s₁.cfg.thresh = s₂.cfg.thresh →
    exec .fine s₁ = .next t₁ → exec .fine s₂ = .next t₂ →
    t₁.regs.subCnt = t₂.regs.subCnt ∧
    ((t₁.regs.tickFlag = s₁.regs.tickFlag ∧ t₂.regs.tickFlag = s₂.regs.tickFlag) ∨
      (t₁.regs.tickFlag = 1 ∧ t₂.regs.tickFlag = 1)))

/-- The period law R85 (the spec's derivation): after any trace from RESET, whatever POLLs came between, SUB_CNT is the
number of FINEs since the last RESET modulo THRESH, and the next FINE is a tick event exactly when its number is a
multiple of THRESH. -/
def Obligations.TickEventsComeEveryThreshFines : Prop :=
  ∀ (c : Cfg) (es : List Instr) (s : State) (h : History), ReachedBy c es s h →
    s.regs.subCnt = h.fines % c.thresh ∧
    (isTickEvent .fine s = true ↔ c.thresh ∣ h.fines + 1) ∧
    ∃ t, exec .fine s = .next t ∧ t.regs.subCnt = (h.fines + 1) % c.thresh ∧
      (c.thresh ∣ h.fines + 1 → t.regs.tickFlag = 1)

/-- R86 (the spec's derivation): TICK_FLAG goes from 0 to 1 exactly at a tick event that finds it 0, and from 1 to 0
only at a POLL or a RESET. -/
def Obligations.TickFlagRisesOnlyAtFreshTick : Prop :=
  ∀ (i : Instr) (s t : State), exec i s = .next t →
    ((s.regs.tickFlag = 0 ∧ t.regs.tickFlag = 1) ↔ (isTickEvent i s = true ∧ s.regs.tickFlag = 0)) ∧
    (s.regs.tickFlag = 1 → t.regs.tickFlag = 0 → i ≠ .fine)

/-- R47 says that "FINE is never idempotent, because it increments SUB_CNT". Under R80 that is so exactly when
THRESH > 1: with THRESH = 1 every FINE leaves SUB_CNT = 0 and TICK_FLAG = 1 (log 16). -/
def Obligations.FineIdempotentExactlyAtThreshOne : Prop :=
  ∀ s t : State, s.Inv → exec .fine s = .next t → (exec .fine t = .next t ↔ s.cfg.thresh = 1)

/-- R47's fifth bullet, on FINE, as written. Expected to FAIL: THRESH = 1 (log 16). -/
def Obligations.FineNeverIdempotent : Prop :=
  ∀ s t : State, s.Inv → exec .fine s = .next t → exec .fine t ≠ .next t

/-! ### The Fade Controller -/

/-- R101: with TICK_FLAG = 0 POLL completes, writes nothing and does not use `p`. -/
def Obligations.IdlePollWritesNothing : Prop :=
  ∀ (p : Bit) (s : State), s.regs.tickFlag = 0 → exec (.poll p) s = .next s

/-- R103, the step-delay counter: on a consumed tick with `STEP_CNT + 1 < STEP_MS` POLL completes on the pace path, the
tick consumed and STEP_CNT counted up, and nothing else written; otherwise it writes STEP_CNT <- 0 and is a completed
fade step. -/
def Obligations.ConsumedTickPacesOrGoesOn : Prop :=
  ∀ (p : Bit) (s : State), s.regs.tickFlag = 1 →
    (s.regs.stepCnt + 1 < s.cfg.stepMs →
      exec (.poll p) s = .next { s with regs := { s.regs with tickFlag := 0, stepCnt := s.regs.stepCnt + 1 } }) ∧
    (s.cfg.stepMs ≤ s.regs.stepCnt + 1 →
      isFadeStep (.poll p) s = true ∧ ∀ t, exec (.poll p) s = .next t → t.regs.stepCnt = 0)

/-- R104 to R109: on a consumed tick with `STEP_CNT + 1 >= STEP_MS` and the LUT entry there, POLL completes a fade
step. The door is open when `p = 0` (R105), the index is clamped (R106), the duty is the entry at the NEW index (R107),
and the output enable is that duty's gate (R108, R109). -/
def Obligations.FadeStepMovesIndexAndOutputs : Prop :=
  ∀ (p : Bit) (s : State) (i d : Nat), s.regs.tickFlag = 1 → s.cfg.stepMs ≤ s.regs.stepCnt + 1 →
    i = (if p = 0 then (if s.regs.fadeIdx + 1 < s.cfg.n then s.regs.fadeIdx + 1 else s.regs.fadeIdx)
      else (if 0 < s.regs.fadeIdx then s.regs.fadeIdx - 1 else s.regs.fadeIdx)) →
    i < s.cfg.n → s.cfg.lut[i]? = some d →
    exec (.poll p) s = .next { s with regs := { s.regs with
      tickFlag := 0, stepCnt := 0, fadeIdx := i, pwmDuty := d, pwmOe := if d > 0 then 1 else 0 } }

/-- The path table R113 (the spec's derivation), one clause per row, from every well-formed state: POLL(p) always
completes there. -/
def Obligations.PollPathTable : Prop :=
  ∀ (p : Bit) (s : State), s.Inv →
    (s.regs.tickFlag = 0 → exec (.poll p) s = .next s) ∧
    (s.regs.tickFlag = 1 → s.regs.stepCnt + 1 < s.cfg.stepMs →
      exec (.poll p) s = .next { s with regs := { s.regs with tickFlag := 0, stepCnt := s.regs.stepCnt + 1 } }) ∧
    (s.regs.tickFlag = 1 → s.regs.stepCnt + 1 = s.cfg.stepMs → p = 0 → s.regs.fadeIdx < s.cfg.n - 1 →
      ∃ d, s.cfg.lut[s.regs.fadeIdx + 1]? = some d ∧ exec (.poll p) s = .next { s with regs := { s.regs with
        tickFlag := 0, stepCnt := 0, fadeIdx := s.regs.fadeIdx + 1, pwmDuty := d, pwmOe := if d > 0 then 1 else 0 } }) ∧
    (s.regs.tickFlag = 1 → s.regs.stepCnt + 1 = s.cfg.stepMs → p = 0 → s.regs.fadeIdx = s.cfg.n - 1 →
      exec (.poll p) s = .next { s with regs := { s.regs with tickFlag := 0, stepCnt := 0 } }) ∧
    (s.regs.tickFlag = 1 → s.regs.stepCnt + 1 = s.cfg.stepMs → p = 1 → s.regs.fadeIdx > 0 →
      ∃ d, s.cfg.lut[s.regs.fadeIdx - 1]? = some d ∧ exec (.poll p) s = .next { s with regs := { s.regs with
        tickFlag := 0, stepCnt := 0, fadeIdx := s.regs.fadeIdx - 1, pwmDuty := d, pwmOe := if d > 0 then 1 else 0 } }) ∧
    (s.regs.tickFlag = 1 → s.regs.stepCnt + 1 = s.cfg.stepMs → p = 1 → s.regs.fadeIdx = 0 →
      exec (.poll p) s = .next { s with regs := { s.regs with
        tickFlag := 0, stepCnt := 0, fadeIdx := 0, pwmDuty := 0, pwmOe := 0 } })

/-- R41 and R142(d): under an accepted configuration `LutRead(i)` answers the whole entry exactly for an `i` inside the
table, and POLL is refused exactly when its fade step reads outside, which no well-formed state makes happen (the
spec's derivation). -/
def Obligations.PollRefusedExactlyOutsideTheLut : Prop :=
  (∀ (c : Cfg) (i : Nat), c.WellFormed → lutRead c i = (if i < c.n then c.lut[i]? else none) ∧
    ((lutRead c i).isSome = true ↔ i < c.n)) ∧
  (∀ (p : Bit) (s : State) (why : Refusal), s.cfg.WellFormed →
    (exec (.poll p) s = .refused why ↔
      isFadeStep (.poll p) s = true ∧ s.cfg.n ≤ sequencer s.cfg.n (decide (p = 0)) s.regs.fadeIdx ∧
      why = .lutIndex (sequencer s.cfg.n (decide (p = 0)) s.regs.fadeIdx))) ∧
  (∀ (p : Bit) (s : State) (why : Refusal), s.Inv → exec (.poll p) s ≠ .refused why)

/-- The FRAME of POLL: SUB_CNT (R29), the configuration with its LUT (R42) and the rest of the trace are as before;
TICK_FLAG is 0 after (R101, R102); an idle POLL changes no register (R101); FADE_IDX, PWM_DUTY and PWM_OE are as before
unless the POLL is a completed fade step (R103, R104), and that one leaves STEP_CNT 0 (R103). -/
def Obligations.PollFrame : Prop :=
  ∀ (p : Bit) (s t : State), exec (.poll p) s = .next t →
    t.regs.subCnt = s.regs.subCnt ∧ t.cfg = s.cfg ∧ t.pending = s.pending ∧
    (∀ i, lutRead t.cfg i = lutRead s.cfg i) ∧ t.regs.tickFlag = 0 ∧
    (s.regs.tickFlag = 0 → t.regs = s.regs) ∧
    (isFadeStep (.poll p) s = false → fadeState t.regs = fadeState s.regs) ∧
    (isFadeStep (.poll p) s = true → t.regs.stepCnt = 0)

/-- R107, R108 and R109 with R110's commit: after a completed fade step from ANY state, PWM_DUTY is the LUT entry at
the index the step wrote, and PWM_OE is its gate, even if unchanged. -/
def Obligations.FadeStepCommitsDutyAndGate : Prop :=
  ∀ (p : Bit) (s t : State), isFadeStep (.poll p) s = true → exec (.poll p) s = .next t →
    s.cfg.lut[t.regs.fadeIdx]? = some t.regs.pwmDuty ∧
    (t.regs.pwmOe = 1 ↔ t.regs.pwmDuty > 0) ∧ (t.regs.pwmOe = 0 ↔ t.regs.pwmDuty = 0)

/-- R22: "No other event reads" SUB_CNT. POLL from two states that differ only in SUB_CNT gives outcomes that differ
only there, and RESET's outcome does not depend on it. -/
def Obligations.OnlyFineReadsSubCnt : Prop :=
  ∀ (v : Nat) (s t : State),
    (∀ p : Bit, exec (.poll p) s = .next t →
      exec (.poll p) { s with regs := { s.regs with subCnt := v } } =
        .next { t with regs := { t.regs with subCnt := v } }) ∧
    (∀ (p : Bit) (why : Refusal), exec (.poll p) s = .refused why →
      exec (.poll p) { s with regs := { s.regs with subCnt := v } } = .refused why) ∧
    exec .reset { s with regs := { s.regs with subCnt := v } } = exec .reset s

/-- The cadence law R115 (the spec's derivation): after any trace from RESET, STEP_CNT is the number of consumed ticks
modulo STEP_MS, and the next consumed tick is a completed fade step exactly when its number is a multiple of STEP_MS. -/
def Obligations.FadeStepsComeEveryStepMsTicks : Prop :=
  ∀ (c : Cfg) (es : List Instr) (s : State) (h : History) (p : Bit), ReachedBy c es s h →
    s.regs.stepCnt = h.consumed % c.stepMs ∧ h.steps = h.consumed / c.stepMs ∧
    (s.regs.tickFlag = 1 → (isFadeStep (.poll p) s = true ↔ c.stepMs ∣ h.consumed + 1))

/-- R116 (the spec's derivation): FADE_IDX does not change but in a completed fade step or at RESET; a completed fade
step changes it by at most one, in the door's direction, and leaves it only at the clamp. -/
def Obligations.IndexMovesOnceOnlyInFadeSteps : Prop :=
  ∀ (i : Instr) (s t : State), s.Inv → exec i s = .next t →
    (i ≠ .reset → isFadeStep i s = false → t.regs.fadeIdx = s.regs.fadeIdx) ∧
    (∀ p : Bit, i = .poll p → isFadeStep i s = true →
      (p = 0 → t.regs.fadeIdx = s.regs.fadeIdx + 1 ∨ (t.regs.fadeIdx = s.regs.fadeIdx ∧ s.regs.fadeIdx = s.cfg.n - 1)) ∧
      (p = 1 → t.regs.fadeIdx + 1 = s.regs.fadeIdx ∨ (t.regs.fadeIdx = 0 ∧ s.regs.fadeIdx = 0)))

/-- Convergence, R117 (the spec's derivation): over a trace without RESET whose `k` completed fade steps all sample the
same level, whatever FINEs and other POLLs come between, FADE_IDX ends at min(N-1, i0 + k) with the door open and at
max(0, i0 - k) with it closed. -/
def Obligations.HeldDoorConvergesToItsEndpoint : Prop :=
  ∀ (es : List Instr) (s t : State) (p : Bit) (k : Nat), s.Inv → .reset ∉ es → runEvents es s = .next t →
    (historyOf es s History.empty).levels = List.replicate k p →
    t.regs.fadeIdx = if p = 0 then min (s.cfg.n - 1) (s.regs.fadeIdx + k) else s.regs.fadeIdx - k

/-- R118 (the spec's derivation): the `p` of an idle or pace POLL never matters, and two traces from RESET under one
configuration whose completed fade steps sampled the same levels since the last RESET end with the same FADE_IDX,
PWM_DUTY and PWM_OE, however the rest of the two traces differs. -/
def Obligations.OnlySampledLevelsMatter : Prop :=
  (∀ (p q : Bit) (s : State), isFadeStep (.poll p) s = false → exec (.poll p) s = exec (.poll q) s) ∧
  (∀ (c : Cfg) (es₁ es₂ : List Instr) (s₁ s₂ : State) (h₁ h₂ : History),
    ReachedBy c es₁ s₁ h₁ → ReachedBy c es₂ s₂ h₂ → h₁.levels = h₂.levels → fadeState s₁.regs = fadeState s₂.regs)

/-- The counting law of R119 (the spec's derivation), less its last sentence (log 16): K = floor(C / STEP_MS), C <= T,
T = floor(F / THRESH), and so K <= floor(floor(F / THRESH) / STEP_MS). That F, T, C and K are counted since the most
recent RESET is the model's reading, log 25 (DEDUCED). -/
def Obligations.FadeNeverFasterThanItsTicks : Prop :=
  ∀ (c : Cfg) (es : List Instr) (s : State) (h : History), ReachedBy c es s h →
    h.steps = h.consumed / c.stepMs ∧ h.consumed ≤ h.ticks ∧ h.ticks = h.fines / c.thresh ∧
    h.steps ≤ h.fines / c.thresh / c.stepMs

/-- Where every tick went (R84, R102): consumed, coalesced, or still pending. What R119's last sentence comes to. -/
def Obligations.EveryTickConsumedLostOrPending : Prop :=
  ∀ (c : Cfg) (es : List Instr) (s : State) (h : History), ReachedBy c es s h →
    h.ticks = h.consumed + h.coalesced + s.regs.tickFlag.toNat

/-- R119's last sentence as written: "`C < T` exactly when ticks were coalesced". Expected to FAIL: a tick that is still
pending has been counted in T and not yet in C (log 16). -/
def Obligations.FewerConsumedExactlyWhenCoalesced : Prop :=
  ∀ (c : Cfg) (es : List Instr) (s : State) (h : History), ReachedBy c es s h →
    (h.consumed < h.ticks ↔ 0 < h.coalesced)

/-- R119's last sentence wherever no tick is pending, as at the end of program P2, for which 95_test_vectors.md uses it:
"`C < T` exactly when ticks were coalesced". That it is read of those traces alone is the model's, log 16 (DEDUCED). -/
def Obligations.FewerConsumedExactlyWhenCoalescedIfNonePending : Prop :=
  ∀ (c : Cfg) (es : List Instr) (s : State) (h : History), ReachedBy c es s h → s.regs.tickFlag = 0 →
    (h.consumed < h.ticks ↔ 0 < h.coalesced)

/-- R120 (the spec's derivation): PWM_OE and PWM_DUTY change only in a completed fade step or at RESET, and a completed
fade step moves PWM_OE up or down exactly as the LUT entries at the old and the new index say. -/
def Obligations.OutputsChangeOnlyAtFadeSteps : Prop :=
  ∀ (i : Instr) (s t : State), s.Inv → exec i s = .next t →
    (i ≠ .reset → isFadeStep i s = false → outputsOf t.regs = { outputsOf s.regs with tickFlag := t.regs.tickFlag }) ∧
    (isFadeStep i s = true → ∃ dOld dNew,
      s.cfg.lut[s.regs.fadeIdx]? = some dOld ∧ s.cfg.lut[t.regs.fadeIdx]? = some dNew ∧
      ((s.regs.pwmOe = 0 ∧ t.regs.pwmOe = 1) ↔ (dOld = 0 ∧ dNew > 0)) ∧
      ((s.regs.pwmOe = 1 ∧ t.regs.pwmOe = 0) ↔ (dOld > 0 ∧ dNew = 0)))

/-- WF6 carried to the outputs (R10, R106, R107): from a well-formed state a POLL with the door open never dims the
output and one with the door closed never brightens it. -/
def Obligations.OpenDoorNeverDims : Prop :=
  ∀ (s t : State), s.Inv →
    (exec (.poll 0) s = .next t → s.regs.pwmDuty ≤ t.regs.pwmDuty) ∧
    (exec (.poll 1) s = .next t → t.regs.pwmDuty ≤ s.regs.pwmDuty)

/-- R190's lower bound: the time the FINEs since RESET took is at least FADE_IDX completed-fade-step periods, so a full
fade takes at least `(N-1) × STEP_MS × THRESH × T_FINE`. Two clauses are the model's own: that time is the count of FINE
events times T_FINE, log 14 (DESIGN CHOICE), and that R190's "at most once per" bounds how many fade steps a trace from
RESET holds (by R119, the spec's derivation) and not each gap between two, log 17 (DEDUCED). -/
def Obligations.FullFadeTakesItsTime : Prop :=
  ∀ (c : Cfg) (es : List Instr) (s : State) (h : History), ReachedBy c es s h →
    s.regs.fadeIdx * c.fadeStepPeriod ≤ h.fines * c.tFine ∧
    (s.regs.fadeIdx = c.n - 1 → c.fullFadeTime ≤ h.fines * c.tFine)

/-- R181 (the spec's derivation): as long as no FINE is delivered after RESET, every register keeps its reset value and
every POLL is idle. -/
def Obligations.WithoutFineEveryPollIsIdle : Prop :=
  ∀ (c : Cfg) (es : List Instr) (s : State) (h : History), ReachedBy c es s h → .fine ∉ es →
    s.regs = Regs.reset ∧ ∀ p : Bit, isIdlePoll (.poll p) s = true ∧ exec (.poll p) s = .next s

/-- R158 (the spec's derivation): the variant that sleeps until a tick, a trace with its idle POLLs left out, ends as
the trace does, and no POLL of it is idle. -/
def Obligations.SleepingVariantEndsTheSame : Prop :=
  ∀ (es : List Instr) (s : State), runEvents (withoutIdlePolls es s) s = runEvents es s ∧
    withoutIdlePolls (withoutIdlePolls es s) s = withoutIdlePolls es s

/-- `tick` (R68, the spec's decision and derivation): from SUB_CNT = 0 it completes with exactly one tick event and
leaves SUB_CNT = 0. -/
def Obligations.TickPseudoMakesOneTick : Prop :=
  ∀ s : State, s.cfg.WellFormed → s.regs.subCnt = 0 →
    runEvents (Pseudo.tick.expand s.cfg) s = .next { s with regs := { s.regs with tickFlag := 1 } } ∧
    (historyOf (Pseudo.tick.expand s.cfg) s History.empty).ticks = 1

/-- `step D K` (R68, the spec's decision and derivation): from SUB_CNT = 0 and any STEP_CNT, with `K >= 1`, it performs
exactly K completed fade steps with door D, consumes STEP_MS ticks for each, and leaves SUB_CNT = 0, STEP_CNT unchanged
and TICK_FLAG = 0. `step D` is `step D 1`. -/
def Obligations.StepPseudoMakesItsFadeSteps : Prop :=
  ∀ (s : State) (p : Bit) (k : Nat), s.Inv → s.regs.subCnt = 0 → 1 ≤ k →
    (Pseudo.step p).expand s.cfg = (Pseudo.steps p 1).expand s.cfg ∧
    (historyOf ((Pseudo.steps p k).expand s.cfg) s History.empty).levels = List.replicate k p ∧
    (historyOf ((Pseudo.steps p k).expand s.cfg) s History.empty).consumed = k * s.cfg.stepMs ∧
    ∃ t, runEvents ((Pseudo.steps p k).expand s.cfg) s = .next t ∧
      t.regs.subCnt = 0 ∧ t.regs.stepCnt = s.regs.stepCnt ∧ t.regs.tickFlag = 0

/-! ### RESET -/

/-- R170: RESET completes in every state, whatever its registers, its configuration and its trace, and leaves all six
registers 0. The zeros of TICK_FLAG, SUB_CNT, PWM_DUTY and PWM_OE are the spec's decisions D8 to D10 (log 2). -/
def Obligations.ResetZeroesAllSixRegisters : Prop :=
  ∀ s : State, exec .reset s = .next { s with regs :=
    { tickFlag := 0, subCnt := 0, stepCnt := 0, fadeIdx := 0, pwmDuty := 0, pwmOe := 0 } }

/-- R173, R174 and R179: RESET completes, leaves STEP_CNT and FADE_IDX 0, and does not change CFG or the LUT. -/
def Obligations.ResetClearsIndexAndStepCounter : Prop :=
  ∀ s : State, ∃ t, exec .reset s = .next t ∧ t.regs.stepCnt = 0 ∧ t.regs.fadeIdx = 0 ∧ t.cfg = s.cfg ∧
    ∀ i, lutRead t.cfg i = lutRead s.cfg i

/-- A RESET word runs from any registers whatever and starts a well-formed run (R170, R177). That it may run from
registers that violate R31 to R35 is the model's reading, log 5 (DEDUCED). -/
def Obligations.ResetWordRestartsFromAnything : Prop :=
  ∀ (s : State) (rest : List EventWord), s.cfg.WellFormed → s.pending = 0xC0#8 :: rest →
    ∃ t, step s = .next t ∧ t.regs.stepCnt = 0 ∧ t.regs.fadeIdx = 0 ∧ t.cfg = s.cfg ∧ t.pending = rest ∧ t.Inv

/-- The reset state (R171 to R176; decisions D8 to D10, log 2): six zeros. That `State.reset` has no word to come is the
model's own, log 4 (DESIGN CHOICE). -/
def Obligations.ResetStateIsAllZero : Prop :=
  (∀ (c : Cfg) (ws : List EventWord), (State.resetWith c ws).regs = ⟨0, 0, 0, 0, 0, 0⟩ ∧
    (State.resetWith c ws).cfg = c ∧ (State.resetWith c ws).pending = ws) ∧
  State.reset.regs = ⟨0, 0, 0, 0, 0, 0⟩ ∧ State.reset.pending = [] ∧ core.reset = State.reset

/-! ### The machine: invariants, totality, agents, steps -/

/-- R31 to R35 hold right after RESET under every accepted configuration (the spec's derivation), and so in the model's
reset state. -/
def Obligations.ResetMeetsTheInvariants : Prop :=
  (∀ (c : Cfg) (ws : List EventWord), c.WellFormed → (State.resetWith c ws).Inv) ∧ State.reset.Inv

/-- R31 to R35 (the spec's derivation) are kept by every step and by every event from every well-formed state. -/
def Obligations.EveryStepKeepsTheInvariants : Prop :=
  (∀ s t : State, s.Inv → step s = .next t → t.Inv) ∧
  (∀ (i : Instr) (s t : State), s.Inv → exec i s = .next t → t.Inv)

/-- R35's second equation on the ports (R155; the spec's derivation): in every state reached from RESET the output is
driven exactly when its duty is above 0, and the duty fits in DUTY_W bits. -/
def Obligations.OutputPortsAlwaysGated : Prop :=
  ∀ (c : Cfg) (es : List Instr) (s : State) (h : History), ReachedBy c es s h →
    ((outputsOf s.regs).pwmOe = 1 ↔ 0 < (outputsOf s.regs).pwmDuty) ∧
    (outputsOf s.regs).pwmDuty ≤ 2 ^ c.dutyW - 1

/-- R141 (the spec's derivation): from every well-formed state every trace of events completes, in a well-formed state,
with the configuration and the rest of the trace as they were; and every valid word steps. -/
def Obligations.WellFormedRunsNeverStop : Prop :=
  (∀ (es : List Instr) (s : State), s.Inv →
    ∃ t, runEvents es s = .next t ∧ t.Inv ∧ t.cfg = s.cfg ∧ t.pending = s.pending) ∧
  (∀ (s : State) (w : EventWord) (rest : List EventWord) (i : Instr), s.Inv → s.pending = w :: rest →
    decode w = .ok i → ∃ t, step s = .next t ∧ t.pending = rest)

/-- A step runs the decoded event: with an accepted configuration, and well-formed registers unless the event is RESET
(R36), a step at a word that decodes to `i` is `exec i` with that word taken off the trace. That a RESET word runs from
registers that violate R31 to R35 is the model's reading of R36 with R177, not a rule: log 5 (DEDUCED). -/
def Obligations.StepRunsTheDecodedEvent : Prop :=
  ∀ (s : State) (w : EventWord) (rest : List EventWord) (i : Instr), s.cfg.WellFormed →
    i = .reset ∨ s.regs.Inv s.cfg → s.pending = w :: rest → decode w = .ok i →
    step s = exec i { s with pending := rest }

/-- The model's reading of an absence of events (R30, R143), log 3 (DEDUCED): at the end of the trace a step changes
nothing. -/
def Obligations.NoEventLeavesTheBlockAsItIs : Prop :=
  ∀ s : State, s.Inv → s.pending = [] → step s = .next s

/-- Steps over an encoded trace are the run of its events (R49, R60; the spec's decisions D1, D2). -/
def Obligations.StepsOverWordsRunTheEvents : Prop :=
  ∀ (es : List Instr) (s : State) (rest : List EventWord), s.Inv →
    core.run es.length { s with pending := encodeTrace es ++ rest } = runEvents es { s with pending := rest }

/-- R65 and R142(b) (decision D3): a trace is refused at its first INVALID word, with the events before it run, and no
longer run gets past it. -/
def Obligations.TraceRefusedAtItsInvalidWord : Prop :=
  ∀ (s : State) (es : List Instr) (bad : EventWord) (rest : List EventWord) (why : DecodeReject), s.Inv →
    decode bad = .error why →
    (∃ t, core.run es.length { s with pending := encodeTrace es ++ bad :: rest } = .next t ∧ t.Inv ∧
      t.pending = bad :: rest ∧ step t = .refused (.invalidWord bad why)) ∧
    ∀ n, core.run (es.length + 1 + n) { s with pending := encodeTrace es ++ bad :: rest } =
      .refused (.invalidWord bad why)

/-- R10's checks as properties (decision D5 for WF1, WF2, WF3 and WF7), and R142(a): a configuration is accepted exactly
when it has all seven, and a step under one that is not is refused. The model's own is the order of refusals, log 6
(DESIGN CHOICE): the refusal names the first check that fails, and stands before the refusals of the word and of the
registers, whatever word comes next or none. -/
def Obligations.IllFormedConfigurationRefused : Prop :=
  (∀ c : Cfg, c.WellFormed ↔
    1 ≤ c.thresh ∧ 1 ≤ c.stepMs ∧ 1 ≤ c.n ∧ c.lut.length = c.n ∧ c.lut[0]? = some 0 ∧
    (∀ i a b : Nat, i + 1 < c.n → c.lut[i]? = some a → c.lut[i + 1]? = some b → a ≤ b) ∧
    (∀ i a : Nat, c.lut[i]? = some a → a ≤ 2 ^ c.dutyW - 1)) ∧
  (∀ (s : State) (k : CfgCheck), step s = .refused (.illFormedConfig k) ↔ s.cfg.firstFailed = some k)

/-- R36 and R142(c) (decision D21): a step is refused as a bad launch state exactly when the configuration is accepted,
the registers violate R31 to R35 and what comes next is neither a RESET nor an INVALID word. The model's own: that an
accepted configuration and a valid word are checked before the launch state is its order of refusals, log 6
(DESIGN CHOICE); that RESET is let through, and that the check stands before every other event and at the end of the
trace, is its reading of R36 with R177, log 5 (DEDUCED). -/
def Obligations.BadLaunchStateRefused : Prop :=
  ∀ s : State, step s = .refused .launchState ↔
    s.cfg.WellFormed ∧ ¬ s.regs.Inv s.cfg ∧
    (s.pending = [] ∨ ∃ w rest i, s.pending = w :: rest ∧ decode w = .ok i ∧ i ≠ .reset)

/-- R29: FINE writes only SUB_CNT and TICK_FLAG, and TICK_FLAG only with 1; POLL writes only TICK_FLAG (only with 0),
STEP_CNT, FADE_IDX, PWM_OE and PWM_DUTY; RESET writes all six. -/
def Obligations.SingleWriterPerField : Prop :=
  ∀ s t : State,
    (exec .fine s = .next t →
      t.regs = { s.regs with subCnt := t.regs.subCnt, tickFlag := t.regs.tickFlag } ∧
      (t.regs.tickFlag = s.regs.tickFlag ∨ t.regs.tickFlag = 1)) ∧
    (∀ p : Bit, exec (.poll p) s = .next t →
      t.regs.subCnt = s.regs.subCnt ∧ (t.regs.tickFlag = s.regs.tickFlag ∨ t.regs.tickFlag = 0)) ∧
    (exec .reset s = .next t → ∀ r : Regs, exec .reset { s with regs := r } = .next t)

/-- R42, with R55 and R179: no event writes the LUT or any other part of the configuration, RESET included, and no step
does. -/
def Obligations.NoEventWritesTheLut : Prop :=
  (∀ (i : Instr) (s t : State), exec i s = .next t → t.cfg = s.cfg ∧ ∀ j, lutRead t.cfg j = lutRead s.cfg j) ∧
  (∀ s t : State, step s = .next t → t.cfg = s.cfg)

/-- T_FINE (R8): "no rule depends on it". A step under another T_FINE gives the same outcome but for that field. -/
def Obligations.FinePeriodIsNeverRead : Prop :=
  ∀ (s : State) (v : Nat),
    (∀ t, step s = .next t →
      step { s with cfg := { s.cfg with tFine := v } } = .next { t with cfg := { t.cfg with tFine := v } }) ∧
    (∀ why, step s = .refused why → step { s with cfg := { s.cfg with tFine := v } } = .refused why)

/-- The counters fit (R9, R81, R111; the spec's derivation): in a well-formed state the incremented SUB_CNT and STEP_CNT
are at most THRESH and STEP_MS, and they and FADE_IDX fit in the least widths of an RTL realisation. That ceil(log2 m) is
0 for m <= 1 is the model's reading, log 10 (DEDUCED). -/
def Obligations.NoCounterOverflowsItsWidth : Prop :=
  ∀ s : State, s.Inv →
    s.regs.subCnt + 1 ≤ s.cfg.thresh ∧ s.regs.subCnt + 1 < 2 ^ s.cfg.subCntBits ∧
    s.regs.stepCnt + 1 ≤ s.cfg.stepMs ∧ s.regs.stepCnt + 1 < 2 ^ s.cfg.stepCntBits ∧
    s.regs.fadeIdx < 2 ^ s.cfg.fadeIdxBits

/-- R51 (the spec's derivation; decision D12): the source's POLL with any number of whole FINEs between any two of its
nine steps ends as the atomic POLL does in some order of the same FINEs around it. The grain is the model's own, log 23
(DEDUCED): each step is one access, step 3 with its increment, compare and write among them, so no FINE falls inside a
step. It is narrower than R51's "anywhere in the source's steps 3 to 9". -/
def Obligations.InterleavedPollIsSerial : Prop :=
  ∀ (s : State) (p : Bit) (ts : List Turn) (r : Regs),
    interleave s.cfg p ts (.readFlag, s.regs) = (.finished, r) →
    ∃ before after, before + after = ts.count .interrupt ∧
      runEvents (List.replicate before .fine ++ .poll p :: List.replicate after .fine) s = .next { s with regs := r }

/-- R52 (decision D13): FINE and POLL at one instant have two admitted results, POLL then FINE and FINE then POLL. They
are the same unless the FINE is a tick event; then the first keeps the tick pending and the second has consumed or
lost it. That the outcomes are a list, the recommended order first, is the model's form, log 8. -/
def Obligations.FineAndPollAtOneInstant : Prop :=
  ∀ (p : Bit) (s : State), s.Inv →
    ∃ a b, instantOutcomes ⟨0, 1, 1, p⟩ s = [.next a, .next b] ∧
      runEvents [.poll p, .fine] s = .next a ∧ runEvents [.fine, .poll p] s = .next b ∧
      (a = b ↔ isTickEvent .fine s = false) ∧
      (isTickEvent .fine s = true → a.regs.tickFlag = 1 ∧ b.regs.tickFlag = 0)

/-- R146 (decision D11): RESET at one instant with a FINE or a POLL has two admitted results, the other event lost or
the other event run from the reset registers; with a POLL the two are the same. That the outcomes are a list, in this
order, is the model's form, log 8. -/
def Obligations.ResetWithAnotherEventAtOneInstant : Prop :=
  ∀ (p : Bit) (s : State), s.Inv →
    instantOutcomes ⟨1, 1, 0, p⟩ s =
      [.next { s with regs := Regs.reset }, exec .fine { s with regs := Regs.reset }] ∧
    instantOutcomes ⟨1, 0, 1, p⟩ s = [.next { s with regs := Regs.reset }, .next { s with regs := Regs.reset }]
end

