-- ==== Sys2Proof/Laws/State.lean ====
section
/-! SUPPORT. One lemma per register per write, and per field of State per update, so that no proof unfolds an update. -/

namespace Sys2Proof.Machine

variable (r : Regs) (s : State) (v : Nat) (b : Bit)

@[simp] theorem setTick_tickFlag : (setTick r).tickFlag = 1 := rfl
@[simp] theorem setTick_subCnt : (setTick r).subCnt = r.subCnt := rfl
@[simp] theorem setTick_stepCnt : (setTick r).stepCnt = r.stepCnt := rfl
@[simp] theorem setTick_fadeIdx : (setTick r).fadeIdx = r.fadeIdx := rfl
@[simp] theorem setTick_pwmDuty : (setTick r).pwmDuty = r.pwmDuty := rfl
@[simp] theorem setTick_pwmOe : (setTick r).pwmOe = r.pwmOe := rfl

@[simp] theorem clearTick_tickFlag : (clearTick r).tickFlag = 0 := rfl
@[simp] theorem clearTick_subCnt : (clearTick r).subCnt = r.subCnt := rfl
@[simp] theorem clearTick_stepCnt : (clearTick r).stepCnt = r.stepCnt := rfl
@[simp] theorem clearTick_fadeIdx : (clearTick r).fadeIdx = r.fadeIdx := rfl
@[simp] theorem clearTick_pwmDuty : (clearTick r).pwmDuty = r.pwmDuty := rfl
@[simp] theorem clearTick_pwmOe : (clearTick r).pwmOe = r.pwmOe := rfl

@[simp] theorem writeSubCnt_tickFlag : (writeSubCnt v r).tickFlag = r.tickFlag := rfl
@[simp] theorem writeSubCnt_subCnt : (writeSubCnt v r).subCnt = v := rfl
@[simp] theorem writeSubCnt_stepCnt : (writeSubCnt v r).stepCnt = r.stepCnt := rfl
@[simp] theorem writeSubCnt_fadeIdx : (writeSubCnt v r).fadeIdx = r.fadeIdx := rfl
@[simp] theorem writeSubCnt_pwmDuty : (writeSubCnt v r).pwmDuty = r.pwmDuty := rfl
@[simp] theorem writeSubCnt_pwmOe : (writeSubCnt v r).pwmOe = r.pwmOe := rfl

@[simp] theorem writeStepCnt_tickFlag : (writeStepCnt v r).tickFlag = r.tickFlag := rfl
@[simp] theorem writeStepCnt_subCnt : (writeStepCnt v r).subCnt = r.subCnt := rfl
@[simp] theorem writeStepCnt_stepCnt : (writeStepCnt v r).stepCnt = v := rfl
@[simp] theorem writeStepCnt_fadeIdx : (writeStepCnt v r).fadeIdx = r.fadeIdx := rfl
@[simp] theorem writeStepCnt_pwmDuty : (writeStepCnt v r).pwmDuty = r.pwmDuty := rfl
@[simp] theorem writeStepCnt_pwmOe : (writeStepCnt v r).pwmOe = r.pwmOe := rfl

@[simp] theorem writeFadeIdx_tickFlag : (writeFadeIdx v r).tickFlag = r.tickFlag := rfl
@[simp] theorem writeFadeIdx_subCnt : (writeFadeIdx v r).subCnt = r.subCnt := rfl
@[simp] theorem writeFadeIdx_stepCnt : (writeFadeIdx v r).stepCnt = r.stepCnt := rfl
@[simp] theorem writeFadeIdx_fadeIdx : (writeFadeIdx v r).fadeIdx = v := rfl
@[simp] theorem writeFadeIdx_pwmDuty : (writeFadeIdx v r).pwmDuty = r.pwmDuty := rfl
@[simp] theorem writeFadeIdx_pwmOe : (writeFadeIdx v r).pwmOe = r.pwmOe := rfl

@[simp] theorem writeOutputEnable_tickFlag : (writeOutputEnable b r).tickFlag = r.tickFlag := rfl
@[simp] theorem writeOutputEnable_subCnt : (writeOutputEnable b r).subCnt = r.subCnt := rfl
@[simp] theorem writeOutputEnable_stepCnt : (writeOutputEnable b r).stepCnt = r.stepCnt := rfl
@[simp] theorem writeOutputEnable_fadeIdx : (writeOutputEnable b r).fadeIdx = r.fadeIdx := rfl
@[simp] theorem writeOutputEnable_pwmDuty : (writeOutputEnable b r).pwmDuty = r.pwmDuty := rfl
@[simp] theorem writeOutputEnable_pwmOe : (writeOutputEnable b r).pwmOe = b := rfl

@[simp] theorem dutyWrite_tickFlag : (dutyWrite v r).tickFlag = r.tickFlag := rfl
@[simp] theorem dutyWrite_subCnt : (dutyWrite v r).subCnt = r.subCnt := rfl
@[simp] theorem dutyWrite_stepCnt : (dutyWrite v r).stepCnt = r.stepCnt := rfl
@[simp] theorem dutyWrite_fadeIdx : (dutyWrite v r).fadeIdx = r.fadeIdx := rfl
@[simp] theorem dutyWrite_pwmDuty : (dutyWrite v r).pwmDuty = v := rfl
@[simp] theorem dutyWrite_pwmOe : (dutyWrite v r).pwmOe = r.pwmOe := rfl

@[simp] theorem commitOutputs_tickFlag : (commitOutputs v r).tickFlag = r.tickFlag := rfl
@[simp] theorem commitOutputs_subCnt : (commitOutputs v r).subCnt = r.subCnt := rfl
@[simp] theorem commitOutputs_stepCnt : (commitOutputs v r).stepCnt = r.stepCnt := rfl
@[simp] theorem commitOutputs_fadeIdx : (commitOutputs v r).fadeIdx = r.fadeIdx := rfl
@[simp] theorem commitOutputs_pwmDuty : (commitOutputs v r).pwmDuty = v := rfl
@[simp] theorem commitOutputs_pwmOe : (commitOutputs v r).pwmOe = outputEnable v := rfl

@[simp] theorem resetWrites_tickFlag : (resetWrites r).tickFlag = 0 := rfl
@[simp] theorem resetWrites_subCnt : (resetWrites r).subCnt = 0 := rfl
@[simp] theorem resetWrites_stepCnt : (resetWrites r).stepCnt = 0 := rfl
@[simp] theorem resetWrites_fadeIdx : (resetWrites r).fadeIdx = 0 := rfl
@[simp] theorem resetWrites_pwmDuty : (resetWrites r).pwmDuty = 0 := rfl
@[simp] theorem resetWrites_pwmOe : (resetWrites r).pwmOe = 0 := rfl

@[simp] theorem resetWrites_eq : resetWrites r = Regs.reset := rfl

@[simp] theorem withRegs_regs : (withRegs s r).regs = r := rfl
@[simp] theorem withRegs_cfg : (withRegs s r).cfg = s.cfg := rfl
@[simp] theorem withRegs_pending : (withRegs s r).pending = s.pending := rfl
@[simp] theorem withRegs_withRegs (q : Regs) : withRegs (withRegs s q) r = withRegs s r := rfl
@[simp] theorem withRegs_self : withRegs s s.regs = s := rfl

@[simp] theorem takeWord_regs (ws : List EventWord) : (takeWord s ws).regs = s.regs := rfl
@[simp] theorem takeWord_cfg (ws : List EventWord) : (takeWord s ws).cfg = s.cfg := rfl
@[simp] theorem takeWord_pending (ws : List EventWord) : (takeWord s ws).pending = ws := rfl

@[simp] theorem replaceNextWord_regs (k w : Nat) : (replaceNextWord s k w).regs = s.regs := rfl
@[simp] theorem replaceNextWord_cfg (k w : Nat) : (replaceNextWord s k w).cfg = s.cfg := rfl

@[simp] theorem resetWith_regs (c : Cfg) (ws : List EventWord) : (State.resetWith c ws).regs = Regs.reset := rfl
@[simp] theorem resetWith_cfg (c : Cfg) (ws : List EventWord) : (State.resetWith c ws).cfg = c := rfl
@[simp] theorem resetWith_pending (c : Cfg) (ws : List EventWord) : (State.resetWith c ws).pending = ws := rfl

end Sys2Proof.Machine
end

