-- ==== Sys2Proof/Laws/Words.lean ====
section
/-! SUPPORT. The fields of a packed word, and a word rebuilt from its fields (R60). -/

namespace Sys2Proof

@[simp] theorem opcField_packWord (o : BitVec 2) (p : Bit) : opcField (packWord o p) = o := by
  revert o p; decide

@[simp] theorem rsvField_packWord (o : BitVec 2) (p : Bit) : rsvField (packWord o p) = 0 := by
  revert o p; decide

@[simp] theorem pField_packWord (o : BitVec 2) (p : Bit) : pField (packWord o p) = p := by
  revert o p; decide

/-- A word whose reserved bits are zero is its opcode and operand packed. -/
theorem packWord_fields (w : EventWord) (h : rsvField w = 0) : packWord (opcField w) (pField w) = w := by
  revert w; decide

/-- The two values of a bit. -/
theorem Bit.zero_or_one (b : Bit) : b = 0 ∨ b = 1 := by
  revert b; decide

/-- A bit that is not 0 is 1. -/
theorem Bit.eq_one_of_ne_zero {b : Bit} (h : b ≠ 0) : b = 1 :=
  (Bit.zero_or_one b).resolve_left h

end Sys2Proof
end

