-- ==== Sys2Proof/Laws/Ops.lean ====
section
/-! SUPPORT. What each shared operation can do, said once: the compares, the sequencer, the LUT read, the meaning of
each event, the launch check and the delivery. -/

namespace Sys2Proof.Machine

variable {c : Cfg} {r : Regs} {s t : State} {p : Bit}

@[simp] theorem thresholdReached_eq_true (k : Nat) : thresholdReached c k = true ↔ c.thresh ≤ k := by
  simp [thresholdReached]

@[simp] theorem thresholdReached_eq_false (k : Nat) : thresholdReached c k = false ↔ k < c.thresh := by
  simp [thresholdReached]

@[simp] theorem stillPacing_eq_true (k : Nat) : stillPacing c k = true ↔ k < c.stepMs := by
  simp [stillPacing]

@[simp] theorem stillPacing_eq_false (k : Nat) : stillPacing c k = false ↔ c.stepMs ≤ k := by
  simp [stillPacing]

@[simp] theorem tickPending_eq_true : tickPending r = true ↔ r.tickFlag = 1 := by
  simp [tickPending]

@[simp] theorem tickPending_eq_false : tickPending r = false ↔ r.tickFlag = 0 := by
  rcases Bit.zero_or_one r.tickFlag with h | h <;> simp [tickPending, h]

@[simp] theorem doorOpen_zero : doorOpen 0#1 = true := rfl

@[simp] theorem doorOpen_one : doorOpen 1#1 = false := rfl

theorem outputEnable_eq (d : Nat) : outputEnable d = if 0 < d then 1 else 0 := rfl

/-- Below the ceiling an open door moves the index up (R106). -/
theorem sequencer_open_below {n i : Nat} (h : i + 1 < n) : sequencer n true i = i + 1 := by
  simp [sequencer, h]

/-- At the ceiling an open door leaves the index (R106). -/
theorem sequencer_open_ceiling {n i : Nat} (h : ¬ i + 1 < n) : sequencer n true i = i := by
  simp [sequencer, h]

/-- A closed door moves the index down, and 0 stays 0 (R106). -/
theorem sequencer_closed (n i : Nat) : sequencer n false i = i - 1 := by
  cases i <;> simp [sequencer]

/-- The sequencer never leaves the index range (R34). -/
theorem sequencer_lt {n i : Nat} (b : Bool) (h : i < n) : sequencer n b i < n := by
  cases b
  · rw [sequencer_closed]; omega
  · by_cases h' : i + 1 < n
    · rwa [sequencer_open_below h']
    · rwa [sequencer_open_ceiling h']

/-- `LutRead` answers exactly the entries inside `[0, N-1]` (R41). -/
theorem lutRead_eq_some {i d : Nat} : lutRead c i = some d ↔ i < c.n ∧ c.lut[i]? = some d := by
  by_cases h : i < c.n <;> simp [lutRead, h]

/-- `LutRead` has no answer exactly outside the table (R41). -/
theorem lutRead_eq_none {i : Nat} : lutRead c i = none ↔ c.n ≤ i ∨ c.lut[i]? = none := by
  by_cases h : i < c.n
  · simp [lutRead, h, Nat.not_le.2 h]
  · simp [lutRead, h, Nat.le_of_not_lt h]

/-- FINE at or above the threshold (R82). -/
theorem fineRegs_tick (h : c.thresh ≤ r.subCnt + 1) : fineRegs c r = setTick (writeSubCnt 0 r) := by
  simp [fineRegs, h]

/-- FINE below the threshold (R83). -/
theorem fineRegs_count (h : r.subCnt + 1 < c.thresh) : fineRegs c r = writeSubCnt (r.subCnt + 1) r := by
  have h' : ¬ c.thresh ≤ r.subCnt + 1 := by omega
  simp [fineRegs, h']

/-- Everything FINE can do. -/
theorem fineRegs_cases (c : Cfg) (r : Regs) :
    (c.thresh ≤ r.subCnt + 1 ∧ fineRegs c r = setTick (writeSubCnt 0 r)) ∨
      (r.subCnt + 1 < c.thresh ∧ fineRegs c r = writeSubCnt (r.subCnt + 1) r) := by
  by_cases h : c.thresh ≤ r.subCnt + 1
  · exact .inl ⟨h, fineRegs_tick h⟩
  · exact .inr ⟨by omega, fineRegs_count (by omega)⟩

@[simp] theorem fineRegs_stepCnt : (fineRegs c r).stepCnt = r.stepCnt := by
  rcases fineRegs_cases c r with ⟨-, h⟩ | ⟨-, h⟩ <;> simp [h]

@[simp] theorem fineRegs_fadeIdx : (fineRegs c r).fadeIdx = r.fadeIdx := by
  rcases fineRegs_cases c r with ⟨-, h⟩ | ⟨-, h⟩ <;> simp [h]

@[simp] theorem fineRegs_pwmDuty : (fineRegs c r).pwmDuty = r.pwmDuty := by
  rcases fineRegs_cases c r with ⟨-, h⟩ | ⟨-, h⟩ <;> simp [h]

@[simp] theorem fineRegs_pwmOe : (fineRegs c r).pwmOe = r.pwmOe := by
  rcases fineRegs_cases c r with ⟨-, h⟩ | ⟨-, h⟩ <;> simp [h]

/-- `exec` on each constructor, as the meaning it calls. -/
theorem exec_fine (s : State) : exec .fine s = .next (withRegs s (fineRegs s.cfg s.regs)) := rfl

theorem exec_reset (s : State) : exec .reset s = .next (withRegs s Regs.reset) := rfl

/-- The registers a completed fade step leaves (R104 to R110), for the duty `d` it looked up. -/
def fadeStepRegs (c : Cfg) (p : Bit) (r : Regs) (d : Nat) : Regs :=
  commitOutputs d (writeFadeIdx (sequencer c.n (doorOpen p) r.fadeIdx) (writeStepCnt 0 (clearTick r)))

/-- Everything POLL can do: idle, pace, a fade step, or the read outside the table. -/
theorem exec_poll_cases (p : Bit) (s : State) :
    (s.regs.tickFlag = 0 ∧ exec (.poll p) s = .next s) ∨
    (s.regs.tickFlag = 1 ∧ s.regs.stepCnt + 1 < s.cfg.stepMs ∧
      exec (.poll p) s = .next (withRegs s (writeStepCnt (s.regs.stepCnt + 1) (clearTick s.regs)))) ∨
    (s.regs.tickFlag = 1 ∧ s.cfg.stepMs ≤ s.regs.stepCnt + 1 ∧
      ((∃ d, lutRead s.cfg (sequencer s.cfg.n (doorOpen p) s.regs.fadeIdx) = some d ∧
          exec (.poll p) s = .next (withRegs s (fadeStepRegs s.cfg p s.regs d))) ∨
        (lutRead s.cfg (sequencer s.cfg.n (doorOpen p) s.regs.fadeIdx) = none ∧
          exec (.poll p) s =
            .refused (.lutIndex (sequencer s.cfg.n (doorOpen p) s.regs.fadeIdx))))) := by
  rcases Bit.zero_or_one s.regs.tickFlag with hf | hf
  · exact .inl ⟨hf, by simp [exec, execPoll, tickPending, hf]⟩
  · by_cases hc : s.regs.stepCnt + 1 < s.cfg.stepMs
    · exact .inr (.inl ⟨hf, hc, by simp [exec, execPoll, hf, hc]⟩)
    · refine .inr (.inr ⟨hf, by omega, ?_⟩)
      cases hl : lutRead s.cfg (sequencer s.cfg.n (doorOpen p) s.regs.fadeIdx) with
      | none => exact .inr ⟨rfl, by simp [exec, execPoll, completeFadeStep, hf, hc, hl]⟩
      | some d => exact .inl ⟨d, rfl, by simp [exec, execPoll, completeFadeStep, fadeStepRegs, hf, hc, hl]⟩

/-- No event changes the configuration or the rest of the trace (R42, R179). -/
theorem exec_frame {i : Instr} (h : exec i s = .next t) : t.cfg = s.cfg ∧ t.pending = s.pending := by
  cases i with
  | fine => cases h; exact ⟨rfl, rfl⟩
  | reset => cases h; exact ⟨rfl, rfl⟩
  | poll p =>
    rcases exec_poll_cases p s with ⟨-, e⟩ | ⟨-, -, e⟩ | ⟨-, -, ⟨d, -, e⟩ | ⟨-, e⟩⟩ <;> rw [e] at h <;> cases h <;>
      exact ⟨rfl, rfl⟩

/-- The launch check is R32 to R35 (R36). -/
theorem launchOk_iff : launchOk c r = true ↔ r.Inv c := by
  unfold launchOk
  simp only [Bool.and_eq_true, decide_eq_true_eq, lutRead_eq_some]
  exact ⟨fun ⟨⟨⟨⟨h1, h2⟩, h3⟩, _, h4⟩, h5⟩ => ⟨h1, h2, h3, h4, h5⟩,
    fun h => ⟨⟨⟨⟨h.subCnt_lt, h.stepCnt_lt⟩, h.fadeIdx_lt⟩, h.fadeIdx_lt, h.duty_eq⟩, h.gated⟩⟩

/-- An accepted configuration passes every check, and one that passes every check is accepted (R10). -/
theorem wellFormed_iff_passes : c.WellFormed ↔ ∀ k : CfgCheck, c.passes k = true := by
  unfold Cfg.WellFormed Cfg.firstFailed
  simp only [List.find?_eq_none, Bool.not_eq_true', Bool.not_eq_false, List.mem_cons, List.not_mem_nil]
  exact ⟨fun h k => h k (by cases k <;> simp), fun h k _ => h k⟩

/-- Everything `delivery` can answer. -/
theorem delivery_cases (s : State) :
    (∃ k, s.cfg.firstFailed = some k ∧ delivery s = .refuse (.illFormedConfig k)) ∨
    (s.cfg.WellFormed ∧
      ((s.pending = [] ∧ s.regs.Inv s.cfg ∧ delivery s = .silence) ∨
       (s.pending = [] ∧ ¬ s.regs.Inv s.cfg ∧ delivery s = .refuse .launchState) ∨
       (∃ w rest, s.pending = w :: rest ∧
         ((∃ why, decode w = .error why ∧ delivery s = .refuse (.invalidWord w why)) ∨
          (∃ i, decode w = .ok i ∧
            (((i = .reset ∨ s.regs.Inv s.cfg) ∧ delivery s = .event i rest) ∨
             (i ≠ .reset ∧ ¬ s.regs.Inv s.cfg ∧ delivery s = .refuse .launchState))))))) := by
  unfold delivery
  cases hc : s.cfg.firstFailed with
  | some k => exact .inl ⟨k, rfl, rfl⟩
  | none =>
    refine .inr ⟨hc, ?_⟩
    cases hp : s.pending with
    | nil =>
      by_cases hl : s.regs.Inv s.cfg
      · exact .inl ⟨rfl, hl, by simp [launchOk_iff.2 hl]⟩
      · have : launchOk s.cfg s.regs ≠ true := fun h => hl (launchOk_iff.1 h)
        exact .inr (.inl ⟨rfl, hl, by simp [this]⟩)
    | cons w rest =>
      refine .inr (.inr ⟨w, rest, rfl, ?_⟩)
      cases hd : decode w with
      | error why => exact .inl ⟨why, rfl, by simp [hd]⟩
      | ok i =>
        refine .inr ⟨i, rfl, ?_⟩
        by_cases hm : mayDeliver s.cfg s.regs i = true
        · refine .inl ⟨?_, by simp [hd, hm]⟩
          simpa [mayDeliver, launchOk_iff] using hm
        · have h' : i ≠ .reset ∧ ¬ s.regs.Inv s.cfg := by
            simpa [mayDeliver, ← launchOk_iff] using hm
          exact .inr ⟨h'.1, h'.2, by simp [hd, hm]⟩

end Sys2Proof.Machine
end

