-- ==== Sys2Proof/Laws/Interleave.lean ====
section
/-! SUPPORT. FINE commutes with every register write of POLL but the one of TICK_FLAG (R29, R51). -/

namespace Sys2Proof.Machine

variable (c : Cfg) (r : Regs)

theorem fineRegs_writeStepCnt (v : Nat) : fineRegs c (writeStepCnt v r) = writeStepCnt v (fineRegs c r) := by
  rcases fineRegs_cases c r with ⟨h, e⟩ | ⟨h, e⟩ <;> rw [e]
  · rw [fineRegs_tick (by simpa using h)]; rfl
  · rw [fineRegs_count (by simpa using h)]; rfl

theorem fineRegs_writeFadeIdx (v : Nat) : fineRegs c (writeFadeIdx v r) = writeFadeIdx v (fineRegs c r) := by
  rcases fineRegs_cases c r with ⟨h, e⟩ | ⟨h, e⟩ <;> rw [e]
  · rw [fineRegs_tick (by simpa using h)]; rfl
  · rw [fineRegs_count (by simpa using h)]; rfl

theorem fineRegs_writeOutputEnable (b : Bit) :
    fineRegs c (writeOutputEnable b r) = writeOutputEnable b (fineRegs c r) := by
  rcases fineRegs_cases c r with ⟨h, e⟩ | ⟨h, e⟩ <;> rw [e]
  · rw [fineRegs_tick (by simpa using h)]; rfl
  · rw [fineRegs_count (by simpa using h)]; rfl

theorem fineRegs_dutyWrite (v : Nat) : fineRegs c (dutyWrite v r) = dutyWrite v (fineRegs c r) := by
  rcases fineRegs_cases c r with ⟨h, e⟩ | ⟨h, e⟩ <;> rw [e]
  · rw [fineRegs_tick (by simpa using h)]; rfl
  · rw [fineRegs_count (by simpa using h)]; rfl

/-- The accesses after the clear of TICK_FLAG. -/
def PollPhase.afterClear : PollPhase → Bool
  | .readFlag => false
  | .clearFlag => false
  | _ => true

/-- After the clear, an access and a FINE may change places (R51). -/
theorem pollAccess_fineRegs (p : Bit) (ph : PollPhase) (h : ph.afterClear = true) :
    pollAccess c p ph (fineRegs c r) = ((pollAccess c p ph r).1, fineRegs c (pollAccess c p ph r).2) ∧
      (pollAccess c p ph r).1.afterClear = true := by
  cases ph <;> simp [PollPhase.afterClear] at h
  · by_cases hc : r.stepCnt + 1 < c.stepMs <;>
      simp [pollAccess, hc, fineRegs_writeStepCnt, PollPhase.afterClear]
  · simp [pollAccess, fineRegs_writeStepCnt, PollPhase.afterClear]
  · simp [pollAccess, PollPhase.afterClear]
  · simp [pollAccess, fineRegs_writeFadeIdx, PollPhase.afterClear]
  · cases hl : lutRead c r.fadeIdx <;> simp [pollAccess, hl, PollPhase.afterClear]
  · simp [pollAccess, fineRegs_writeOutputEnable, PollPhase.afterClear]
  · simp [pollAccess, fineRegs_dutyWrite, PollPhase.afterClear]
  · simp [pollAccess, PollPhase.afterClear]
  · simp [pollAccess, PollPhase.afterClear]

end Sys2Proof.Machine
end

