-- ==== Sys2Proof/Laws/PerInstr.lean ====
section
/-! SUPPORT. Statements about every event as syntax, one lemma per constructor. -/

namespace Sys2Proof.Laws.ValidWord

/-- A well-formed event's word has an opcode that is not the reserved one and its reserved bits zero (R61, R63). -/
def Statement (i : Instr) : Prop :=
  i.wf = true → opcField (encode i) ≠ 0b00#2 ∧ rsvField (encode i) = 0b00000#5

theorem fine : Statement .fine := fun _ => by simp [encode]

theorem poll (p : Bit) : Statement (.poll p) := fun _ => by simp [encode]

theorem reset : Statement .reset := fun _ => by simp [encode]

end Sys2Proof.Laws.ValidWord
end

