-- ==== Sys2Proof/Laws/Run.lean ====
section
/-! SUPPORT. One step of the host's run, in terms of `step`. -/

namespace Sys2Proof.Machine

theorem core_run_zero (s : State) : core.run 0 s = .next s := rfl

theorem core_run_next {s t : State} (n : Nat) (h : step s = .next t) : core.run (n + 1) s = core.run n t := by
  have h' : core.step s = .next t := h
  simp only [Host.Core.run, h']

theorem core_run_refused {s : State} {why : Refusal} (n : Nat) (h : step s = .refused why) :
    core.run (n + 1) s = .refused why := by
  have h' : core.step s = .refused why := h
  simp only [Host.Core.run, h']

end Sys2Proof.Machine
end

