-- ==== Sys2Proof/Laws/Text.lean ====
section
/-! SUPPORT. Lines and spellings of the text form (R67). -/

namespace Sys2Proof

/-- The first line of a text ends at its first line feed. -/
theorem linesFrom_append (acc l rest : List Char) (h : '\n' ∉ l) :
    linesFrom acc (l ++ '\n' :: rest) = (acc ++ l) :: linesFrom [] rest := by
  induction l generalizing acc with
  | nil => simp [linesFrom]
  | cons ch l ih =>
    simp only [List.mem_cons, not_or] at h
    have hch : ch ≠ '\n' := fun e => h.1 e.symm
    simp [linesFrom, hch, ih _ h.2]

/-- A spelling is one line. -/
theorem lineFeed_not_mem_spelling (i : Instr) : '\n' ∉ spelling i := by
  cases i with
  | fine => decide
  | reset => decide
  | poll p => revert p; decide

/-- A line of blanks has no words. -/
theorem wordsFrom_blanks (l : List Char) (h : ∀ ch ∈ l, isBlank ch = true) : wordsFrom [] l = [] := by
  induction l with
  | nil => rfl
  | cons a l ih =>
    simp only [List.mem_cons, forall_eq_or_imp] at h
    simp [wordsFrom, h.1, ih h.2]

end Sys2Proof
end

