-- ==== Sys2Proof/Laws/Trace.lean ====
section
/-! SUPPORT. Traces cut in two, the words pending behind a trace, and when an event is a tick event, a consumed tick, an
idle POLL or a completed fade step. -/

namespace Sys2Proof.Machine

variable {s t : State} {p : Bit}

@[simp] theorem runEvents_nil (s : State) : runEvents [] s = .next s := rfl

theorem runEvents_cons_next {i : Instr} (es : List Instr) (h : exec i s = .next t) :
    runEvents (i :: es) s = runEvents es t := by
  simp only [runEvents, h]

/-- A trace in two parts, where the first completes. -/
theorem runEvents_append_next {es : List Instr} (fs : List Instr) (h : runEvents es s = .next t) :
    runEvents (es ++ fs) s = runEvents fs t := by
  induction es generalizing s with
  | nil => cases h; rfl
  | cons i es ih =>
    cases e : exec i s with
    | next u => rw [runEvents_cons_next _ e] at h; rw [List.cons_append, runEvents_cons_next _ e]; exact ih h
    | fault f => simp [runEvents, e] at h
    | refused f => simp [runEvents, e] at h

/-- The history of a trace in two parts, where the first completes. -/
theorem historyOf_append_next {es : List Instr} (fs : List Instr) (h : History) (e : runEvents es s = .next t) :
    historyOf (es ++ fs) s h = historyOf fs t (historyOf es s h) := by
  induction es generalizing s h with
  | nil => cases e; rfl
  | cons i es ih =>
    simp only [List.cons_append, runEvents, historyOf] at *
    cases hx : exec i s with
    | next u => simp only [hx] at e ⊢; exact ih _ e
    | fault f => simp [hx] at e
    | refused f => simp [hx] at e

/-- The words pending behind an event do not matter to it. -/
theorem exec_takeWord (i : Instr) (s : State) (ws : List EventWord) :
    (∀ t, exec i s = .next t → exec i (takeWord s ws) = .next (takeWord t ws)) ∧
    (∀ why, exec i s = .refused why → exec i (takeWord s ws) = .refused why) := by
  cases i with
  | fine => exact ⟨fun t h => (by cases h; rfl), fun why h => by cases h⟩
  | reset => exact ⟨fun t h => (by cases h; rfl), fun why h => by cases h⟩
  | poll p =>
    rcases exec_poll_cases p s with ⟨hf, e⟩ | ⟨hf, hc, e⟩ | ⟨hf, hc, ⟨d, hl, e⟩ | ⟨hl, e⟩⟩
    · have h0 : exec (.poll p) (takeWord s ws) = .next (takeWord s ws) := by
        simp [exec, execPoll, tickPending, hf]
      exact ⟨fun t h => by rw [e] at h; cases h; exact h0, fun why h => by rw [e] at h; cases h⟩
    · have h0 : exec (.poll p) (takeWord s ws) =
          .next (takeWord (withRegs s (writeStepCnt (s.regs.stepCnt + 1) (clearTick s.regs))) ws) := by
        simp [exec, execPoll, hf, hc]; rfl
      exact ⟨fun t h => by rw [e] at h; cases h; exact h0, fun why h => by rw [e] at h; cases h⟩
    · have hc' : ¬ s.regs.stepCnt + 1 < s.cfg.stepMs := by omega
      have h0 : exec (.poll p) (takeWord s ws) = .next (takeWord (withRegs s (fadeStepRegs s.cfg p s.regs d)) ws) := by
        simp [exec, execPoll, completeFadeStep, hf, hc', hl]; rfl
      exact ⟨fun t h => by rw [e] at h; cases h; exact h0, fun why h => by rw [e] at h; cases h⟩
    · have hc' : ¬ s.regs.stepCnt + 1 < s.cfg.stepMs := by omega
      have h0 : exec (.poll p) (takeWord s ws) =
          .refused (.lutIndex (sequencer s.cfg.n (doorOpen p) s.regs.fadeIdx)) := by
        simp [exec, execPoll, completeFadeStep, hf, hc', hl]
      exact ⟨fun t h => (by rw [e] at h; cases h), fun why h => by rw [e] at h; cases h; exact h0⟩

theorem isTickEvent_fine : isTickEvent .fine s = true ↔ s.cfg.thresh ≤ s.regs.subCnt + 1 := by
  simp [isTickEvent]

theorem isConsumedTick_poll : isConsumedTick (.poll p) s = true ↔ s.regs.tickFlag = 1 := by
  simp [isConsumedTick]

theorem isIdlePoll_poll : isIdlePoll (.poll p) s = true ↔ s.regs.tickFlag = 0 := by
  simp [isIdlePoll]

theorem isFadeStep_poll :
    isFadeStep (.poll p) s = true ↔ s.regs.tickFlag = 1 ∧ s.cfg.stepMs ≤ s.regs.stepCnt + 1 := by
  simp [isFadeStep, isConsumedTick]

end Sys2Proof.Machine
end

