-- ==== Sys2Proof/Tests/Slice0.lean ====
section
/-! SUPPORT. Tests with the expected values of 95_test_vectors.md, the ill-formed term that each check refuses, and for
every statement with hypotheses a witness that meets them. -/

namespace Sys2Proof.Machine.Tests

/-! ### The example configurations of 95_test_vectors.md -/

def exA : Cfg := ⟨3, 2, 4, [0, 10, 100, 255], 8, 1⟩
def exB : Cfg := ⟨1, 1, 8, [0, 1, 3, 7, 15, 31, 63, 127], 8, 1⟩
def exC : Cfg := ⟨2, 1, 3, [0, 0, 50], 8, 1⟩
def exD : Cfg := ⟨1, 1, 1, [0], 8, 1⟩

/-- A state with nothing pending. -/
def at_ (c : Cfg) (r : Regs) : State := ⟨r, c, []⟩

/-- The registers an event leaves, if it completes. -/
def regsAfter (i : Instr) (c : Cfg) (r : Regs) : Option Regs :=
  match exec i (at_ c r) with
  | .next t => some t.regs
  | .fault _ => none
  | .refused _ => none

theorem inv_of {c : Cfg} {r : Regs} (hc : c.firstFailed = none) (hr : launchOk c r = true) : (at_ c r).Inv :=
  ⟨hc, launchOk_iff.1 hr⟩

/-! ### Checks: 95_test_vectors.md section 3, one ill-formed configuration for each check -/

theorem test_wf1_refuses : ({ exA with thresh := 0 } : Cfg).firstFailed = some .wf1 := by decide
theorem test_wf2_refuses : ({ exA with stepMs := 0 } : Cfg).firstFailed = some .wf2 := by decide
theorem test_wf3_refuses : ({ exA with n := 0, lut := [] } : Cfg).firstFailed = some .wf3 := by decide
theorem test_wf4_refuses : ({ exA with n := 4, lut := [0, 10, 100] } : Cfg).firstFailed = some .wf4 := by decide
theorem test_wf5_refuses : ({ exA with n := 2, lut := [5, 10] } : Cfg).firstFailed = some .wf5 := by decide
theorem test_wf6_refuses : ({ exA with n := 3, lut := [0, 20, 10] } : Cfg).firstFailed = some .wf6 := by decide
theorem test_wf7_refuses : ({ exA with n := 2, lut := [0, 256] } : Cfg).firstFailed = some .wf7 := by decide
theorem test_wf_accepts : exA.WellFormed ∧ exB.WellFormed ∧ exC.WellFormed ∧ exD.WellFormed ∧
    ({ exA with n := 3, lut := [0, 10, 10] } : Cfg).WellFormed ∧ ({ exA with n := 2, lut := [0, 255] } : Cfg).WellFormed := by
  decide

/-- R36: a register outside each of R32 to R35 is refused as a launch state. -/
theorem test_launch_refuses :
    launchOk exA ⟨0, 3, 0, 0, 0, 0⟩ = false ∧ launchOk exA ⟨0, 0, 2, 0, 0, 0⟩ = false ∧
    launchOk exA ⟨0, 0, 0, 4, 255, 1⟩ = false ∧ launchOk exA ⟨0, 0, 0, 1, 11, 1⟩ = false ∧
    launchOk exA ⟨0, 0, 0, 1, 10, 0⟩ = false ∧ launchOk exA ⟨1, 2, 1, 3, 255, 1⟩ = true := by decide

/-! ### Decoding: words written from R60 and R61, and the INVALID words of 95_test_vectors.md section 2 -/

/-- What a word decodes to, if anything. -/
def decoded (w : EventWord) : Option Instr :=
  match decode w with
  | .ok i => some i
  | .error _ => none

theorem test_decode_fine : decoded 0b01000000#8 = some .fine := by decide
theorem test_decode_poll : decoded 0b10000000#8 = some (.poll 0) ∧ decoded 0b10000001#8 = some (.poll 1) := by decide
theorem test_decode_reset : decoded 0b11000000#8 = some .reset := by decide
theorem test_decode_invalid :
    [0x00#8, 0x01#8, 0x3F#8, 0x41#8, 0x42#8, 0x7E#8, 0x82#8, 0xBF#8, 0xC1#8, 0xFE#8, 0xFF#8].all
      (fun w => (decoded w).isNone) = true := by decide
theorem test_decode_table_word : decodeTableWord 8 0x40 = some .fine ∧ decodeTableWord 8 0x81 = some (.poll 1) ∧
    decodeTableWord 8 0xC0 = some .reset ∧ decodeTableWord 16 0x40 = none := by decide

/-! ### Events: 95_test_vectors.md section 4 -/

/-- T1, T2, T5: the count. -/
theorem test_fine_counts : regsAfter .fine exA ⟨0, 0, 0, 0, 0, 0⟩ = some ⟨0, 1, 0, 0, 0, 0⟩ ∧
    regsAfter .fine exA ⟨0, 1, 0, 0, 0, 0⟩ = some ⟨0, 2, 0, 0, 0, 0⟩ ∧
    regsAfter .fine exA ⟨1, 0, 0, 0, 0, 0⟩ = some ⟨1, 1, 0, 0, 0, 0⟩ := by decide

/-- T3, T4, T6, T7, T8: the tick event, fresh and coalesced. -/
theorem test_fine_ticks : regsAfter .fine exA ⟨0, 2, 0, 0, 0, 0⟩ = some ⟨1, 0, 0, 0, 0, 0⟩ ∧
    regsAfter .fine exA ⟨1, 2, 0, 0, 0, 0⟩ = some ⟨1, 0, 0, 0, 0, 0⟩ ∧
    regsAfter .fine exB ⟨0, 0, 0, 0, 0, 0⟩ = some ⟨1, 0, 0, 0, 0, 0⟩ ∧
    regsAfter .fine exB ⟨1, 0, 0, 0, 0, 0⟩ = some ⟨1, 0, 0, 0, 0, 0⟩ ∧
    regsAfter .fine exA ⟨0, 2, 1, 2, 100, 1⟩ = some ⟨1, 0, 1, 2, 100, 1⟩ := by decide

/-- P-1 to P-4: idle and pace, `p` ignored. -/
theorem test_poll_idle_and_pace : regsAfter (.poll 0) exA ⟨0, 1, 1, 2, 100, 1⟩ = some ⟨0, 1, 1, 2, 100, 1⟩ ∧
    regsAfter (.poll 1) exA ⟨0, 1, 1, 2, 100, 1⟩ = some ⟨0, 1, 1, 2, 100, 1⟩ ∧
    regsAfter (.poll 0) exA ⟨1, 0, 0, 2, 100, 1⟩ = some ⟨0, 0, 1, 2, 100, 1⟩ ∧
    regsAfter (.poll 1) exA ⟨1, 0, 0, 2, 100, 1⟩ = some ⟨0, 0, 1, 2, 100, 1⟩ := by decide

/-- P-5 to P-16: completed fade steps. -/
theorem test_poll_fade_steps : regsAfter (.poll 0) exA ⟨1, 0, 1, 2, 100, 1⟩ = some ⟨0, 0, 0, 3, 255, 1⟩ ∧
    regsAfter (.poll 0) exA ⟨1, 0, 1, 3, 255, 1⟩ = some ⟨0, 0, 0, 3, 255, 1⟩ ∧
    regsAfter (.poll 1) exA ⟨1, 0, 1, 1, 10, 1⟩ = some ⟨0, 0, 0, 0, 0, 0⟩ ∧
    regsAfter (.poll 1) exA ⟨1, 0, 1, 0, 0, 0⟩ = some ⟨0, 0, 0, 0, 0, 0⟩ ∧
    regsAfter (.poll 0) exA ⟨1, 0, 1, 0, 0, 0⟩ = some ⟨0, 0, 0, 1, 10, 1⟩ ∧
    regsAfter (.poll 1) exA ⟨1, 2, 1, 2, 100, 1⟩ = some ⟨0, 2, 0, 1, 10, 1⟩ ∧
    regsAfter (.poll 0) exB ⟨1, 0, 0, 6, 63, 1⟩ = some ⟨0, 0, 0, 7, 127, 1⟩ ∧
    regsAfter (.poll 0) exC ⟨1, 0, 0, 0, 0, 0⟩ = some ⟨0, 0, 0, 1, 0, 0⟩ ∧
    regsAfter (.poll 0) exC ⟨1, 0, 0, 1, 0, 0⟩ = some ⟨0, 0, 0, 2, 50, 1⟩ ∧
    regsAfter (.poll 1) exC ⟨1, 0, 0, 2, 50, 1⟩ = some ⟨0, 0, 0, 1, 0, 0⟩ ∧
    regsAfter (.poll 0) exD ⟨1, 0, 0, 0, 0, 0⟩ = some ⟨0, 0, 0, 0, 0, 0⟩ ∧
    regsAfter (.poll 1) exD ⟨1, 0, 0, 0, 0, 0⟩ = some ⟨0, 0, 0, 0, 0, 0⟩ := by decide

/-- Z1 to Z3, and the worked example of R170. -/
theorem test_reset : regsAfter .reset exA ⟨1, 2, 1, 3, 255, 1⟩ = some ⟨0, 0, 0, 0, 0, 0⟩ ∧
    regsAfter .reset exA ⟨0, 0, 0, 0, 0, 0⟩ = some ⟨0, 0, 0, 0, 0, 0⟩ ∧
    regsAfter .reset exB ⟨1, 0, 0, 5, 31, 1⟩ = some ⟨0, 0, 0, 0, 0, 0⟩ ∧
    regsAfter .reset exB ⟨1, 2, 1, 5, 31, 1⟩ = some ⟨0, 0, 0, 0, 0, 0⟩ := by decide

/-- Section 4.4: the two admitted results, the recommended one first. -/
theorem test_fine_with_poll : instantOutcomes ⟨0, 1, 1, 0⟩ (at_ exA ⟨1, 2, 0, 1, 10, 1⟩) =
    [.next (at_ exA ⟨1, 0, 1, 1, 10, 1⟩), .next (at_ exA ⟨0, 0, 1, 1, 10, 1⟩)] := rfl

/-- The registers after a step, if it completes. -/
def regsAfterStep (s : State) : Option Regs :=
  match step s with
  | .next t => some t.regs
  | .fault _ => none
  | .refused _ => none

theorem test_step_fetches : regsAfterStep (State.reset.withFetchWord 8 0x40) = some ⟨0, 1, 0, 0, 0, 0⟩ ∧
    regsAfterStep (State.reset.withFetchWord 8 0x81) = some ⟨0, 0, 0, 0, 0, 0⟩ ∧
    regsAfterStep (State.reset.withFetchWord 8 0xC0) = some ⟨0, 0, 0, 0, 0, 0⟩ ∧
    regsAfterStep (State.reset.withFetchWord 8 0x00) = none := by decide

/-! ### Text: R67, R68 -/

/-- Two lines, the second with a comment after it (R67), by the expansions of R68 under EX-D. -/
theorem test_assemble_lines : assemble exD
      ['t', 'i', 'c', 'k', '\n', 's', 't', 'e', 'p', ' ', 'o', 'p', 'e', 'n', ' ', '2', ';', 'u'] =
    some [.fine, .fine, .poll 0, .fine, .poll 0] := by decide

theorem test_assemble_counts : assembleLine exA ['f', 'i', 'n', 'e', ' ', '1', '2'] = some (List.replicate 12 .fine) ∧
    assembleLine exA ['p', 'o', 'l', 'l', ' ', 'c', 'l', 'o', 's', 'e', 'd', ' ', '2'] = some [.poll 1, .poll 1] ∧
    assembleLine exA ['t', 'i', 'c', 'k'] = some [.fine, .fine, .fine] := by decide

theorem test_assemble_refuses : assembleLine exA ['F', 'I', 'N', 'E'] = none ∧
    assembleLine exA ['f', 'i', 'n', 'e', ' ', '0'] = none ∧ assembleLine exA ['p', 'o', 'l', 'l'] = none ∧
    assembleLine exA ['p', 'o', 'l', 'l', ' ', '0', ' ', '2'] = none := by decide

/-! ### Witnesses: states and operands that meet the hypotheses of each statement -/

/-- The well-formed states the witnesses use. -/
theorem inv_zero : (at_ exA ⟨0, 0, 0, 0, 0, 0⟩).Inv := inv_of (by decide) (by decide)
theorem inv_pending : (at_ exA ⟨1, 2, 0, 1, 10, 1⟩).Inv := inv_of (by decide) (by decide)
theorem inv_step_up : (at_ exA ⟨1, 0, 1, 2, 100, 1⟩).Inv := inv_of (by decide) (by decide)
theorem inv_ceiling : (at_ exA ⟨1, 0, 1, 3, 255, 1⟩).Inv := inv_of (by decide) (by decide)
theorem inv_floor : (at_ exA ⟨1, 0, 1, 0, 0, 0⟩).Inv := inv_of (by decide) (by decide)
theorem inv_one : (at_ exD ⟨1, 0, 0, 0, 0, 0⟩).Inv := inv_of (by decide) (by decide)

/-- A trace from RESET with a tick pending after it. -/
theorem reached_tick : ReachedBy exA [.fine, .poll 1, .fine, .fine] (at_ exA ⟨1, 0, 0, 0, 0, 0⟩) ⟨3, 1, 0, 0, []⟩ :=
  ⟨by decide, rfl, rfl⟩

/-- A trace from RESET with one completed fade step. -/
theorem reached_step : ReachedBy exB [.fine, .poll 0] (at_ exB ⟨0, 0, 0, 1, 1, 1⟩) ⟨1, 1, 0, 1, [0]⟩ :=
  ⟨by decide, rfl, rfl⟩

theorem witness_TraceDecodeInvertsEncode : decodeTrace [0x40#8, 0x81#8] = .ok [.fine, .poll 1] ∧
    decodeTrace [0x40#8, 0x00#8] = .error (1, .reservedOpcode) := ⟨rfl, rfl⟩

theorem witness_TranscriptAssemblesBack : ∀ ch ∈ [' ', '\t'], isBlank ch = true := by simp [isBlank]

theorem witness_CoalescedTicksLeaveNoTrace : (at_ exA ⟨1, 2, 0, 1, 10, 1⟩).Inv ∧
    (at_ exA ⟨1, 2, 0, 1, 10, 1⟩).regs.tickFlag = 1 ∧ exA.thresh ≤ (at_ exA ⟨1, 2, 0, 1, 10, 1⟩).regs.subCnt + 1 :=
  ⟨inv_pending, by decide, by decide⟩

/-- Two states that FINE reads alike and that differ in the rest, on each path. -/
theorem witness_FineReadsAndWritesOnlyItsOwn :
    exec .fine (at_ exA ⟨0, 2, 0, 0, 0, 0⟩) = .next (at_ exA ⟨1, 0, 0, 0, 0, 0⟩) ∧
    exec .fine (at_ exA ⟨1, 2, 1, 3, 255, 1⟩) = .next (at_ exA ⟨1, 0, 1, 3, 255, 1⟩) ∧
    exec .fine (at_ exA ⟨0, 1, 0, 0, 0, 0⟩) = .next (at_ exA ⟨0, 2, 0, 0, 0, 0⟩) := ⟨rfl, rfl, rfl⟩

theorem witness_TickEventsComeEveryThreshFines :
    ∃ es s h, ReachedBy exA es s h ∧ exA.thresh ∣ h.fines := ⟨_, _, _, reached_tick, by decide⟩

/-- A rise at a fresh tick, and a fall at a POLL. -/
theorem witness_TickFlagRisesOnlyAtFreshTick :
    exec .fine (at_ exA ⟨0, 2, 0, 0, 0, 0⟩) = .next (at_ exA ⟨1, 0, 0, 0, 0, 0⟩) ∧
    exec (.poll 0) (at_ exA ⟨1, 0, 0, 0, 0, 0⟩) = .next (at_ exA ⟨0, 0, 1, 0, 0, 0⟩) := ⟨rfl, rfl⟩

/-- Both sides of the equivalence: THRESH = 1 and THRESH = 3. -/
theorem witness_FineIdempotentExactlyAtThreshOne :
    (at_ exD ⟨1, 0, 0, 0, 0, 0⟩).Inv ∧ exec .fine (at_ exD ⟨1, 0, 0, 0, 0, 0⟩) = .next (at_ exD ⟨1, 0, 0, 0, 0, 0⟩) ∧
    (at_ exA ⟨0, 0, 0, 0, 0, 0⟩).Inv ∧ exec .fine (at_ exA ⟨0, 0, 0, 0, 0, 0⟩) = .next (at_ exA ⟨0, 1, 0, 0, 0, 0⟩) :=
  ⟨inv_one, rfl, inv_zero, rfl⟩

theorem witness_FineNeverIdempotent :
    (at_ exD ⟨1, 0, 0, 0, 0, 0⟩).Inv ∧ exec .fine (at_ exD ⟨1, 0, 0, 0, 0, 0⟩) = .next (at_ exD ⟨1, 0, 0, 0, 0, 0⟩) :=
  ⟨inv_one, rfl⟩

theorem witness_IdlePollWritesNothing : (at_ exA ⟨0, 1, 1, 2, 100, 1⟩).regs.tickFlag = 0 := by decide

/-- At the boundary: the last pacing count and the first that completes a step. -/
theorem witness_ConsumedTickPacesOrGoesOn :
    (at_ exA ⟨1, 0, 0, 2, 100, 1⟩).regs.tickFlag = 1 ∧ (at_ exA ⟨1, 0, 0, 2, 100, 1⟩).regs.stepCnt + 1 < exA.stepMs ∧
    (at_ exA ⟨1, 0, 1, 2, 100, 1⟩).regs.tickFlag = 1 ∧ exA.stepMs ≤ (at_ exA ⟨1, 0, 1, 2, 100, 1⟩).regs.stepCnt + 1 := by
  decide

/-- Steps up, at the ceiling, down and at the floor, each with the index and the entry it gives. -/
theorem witness_FadeStepMovesIndexAndOutputs :
    [((0 : Bit), (⟨1, 0, 1, 2, 100, 1⟩ : Regs), 3, 255), (0, ⟨1, 0, 1, 3, 255, 1⟩, 3, 255),
      (1, ⟨1, 0, 1, 1, 10, 1⟩, 0, 0), (1, ⟨1, 0, 1, 0, 0, 0⟩, 0, 0)].all (fun (p, r, i, d) =>
        decide (r.tickFlag = 1 ∧ exA.stepMs ≤ r.stepCnt + 1 ∧
          i = (if p = 0 then (if r.fadeIdx + 1 < exA.n then r.fadeIdx + 1 else r.fadeIdx)
            else (if 0 < r.fadeIdx then r.fadeIdx - 1 else r.fadeIdx)) ∧
          i < exA.n ∧ exA.lut[i]? = some d)) = true := by decide

/-- Each row of the table: idle, pace, up, ceiling, down, floor. -/
theorem witness_PollPathTable :
    ((at_ exA ⟨0, 0, 0, 0, 0, 0⟩).Inv ∧ (at_ exA ⟨0, 0, 0, 0, 0, 0⟩).regs.tickFlag = 0) ∧
    ((at_ exA ⟨1, 2, 0, 1, 10, 1⟩).Inv ∧ (at_ exA ⟨1, 2, 0, 1, 10, 1⟩).regs.tickFlag = 1 ∧ 0 + 1 < exA.stepMs) ∧
    ((at_ exA ⟨1, 0, 1, 2, 100, 1⟩).Inv ∧ (at_ exA ⟨1, 0, 1, 2, 100, 1⟩).regs.tickFlag = 1 ∧ 1 + 1 = exA.stepMs ∧
      2 < exA.n - 1 ∧ 2 > 0) ∧
    ((at_ exA ⟨1, 0, 1, 3, 255, 1⟩).Inv ∧ (at_ exA ⟨1, 0, 1, 3, 255, 1⟩).regs.tickFlag = 1 ∧ 1 + 1 = exA.stepMs ∧
      3 = exA.n - 1) ∧
    ((at_ exA ⟨1, 0, 1, 0, 0, 0⟩).Inv ∧ (at_ exA ⟨1, 0, 1, 0, 0, 0⟩).regs.tickFlag = 1 ∧ 1 + 1 = exA.stepMs) :=
  ⟨⟨inv_zero, by decide⟩, ⟨inv_pending, by decide, by decide⟩, ⟨inv_step_up, by decide⟩, ⟨inv_ceiling, by decide⟩,
    ⟨inv_floor, by decide⟩⟩

/-- A state that no run reaches, whose fade step reads outside the table. -/
theorem witness_PollRefusedExactlyOutsideTheLut : exA.WellFormed ∧
    exec (.poll 0) (at_ exA ⟨1, 0, 1, 4, 0, 0⟩) = .refused (.lutIndex 4) ∧ (at_ exA ⟨1, 0, 1, 3, 255, 1⟩).Inv :=
  ⟨by decide, rfl, inv_ceiling⟩

theorem witness_PollFrame :
    exec (.poll 0) (at_ exA ⟨0, 1, 1, 2, 100, 1⟩) = .next (at_ exA ⟨0, 1, 1, 2, 100, 1⟩) ∧
    exec (.poll 0) (at_ exA ⟨1, 2, 0, 1, 10, 1⟩) = .next (at_ exA ⟨0, 2, 1, 1, 10, 1⟩) ∧
    isFadeStep (.poll 0) (at_ exA ⟨1, 2, 0, 1, 10, 1⟩) = false ∧
    exec (.poll 0) (at_ exA ⟨1, 0, 1, 2, 100, 1⟩) = .next (at_ exA ⟨0, 0, 0, 3, 255, 1⟩) ∧
    isFadeStep (.poll 0) (at_ exA ⟨1, 0, 1, 2, 100, 1⟩) = true := ⟨rfl, rfl, rfl, rfl, rfl⟩

/-- A fade step from registers that violate R35. -/
theorem witness_FadeStepCommitsDutyAndGate :
    isFadeStep (.poll 1) (at_ exA ⟨1, 9, 1, 1, 77, 0⟩) = true ∧
    exec (.poll 1) (at_ exA ⟨1, 9, 1, 1, 77, 0⟩) = .next (at_ exA ⟨0, 9, 0, 0, 0, 0⟩) := ⟨rfl, rfl⟩

theorem witness_OnlyFineReadsSubCnt :
    exec (.poll 0) (at_ exA ⟨1, 0, 1, 2, 100, 1⟩) = .next (at_ exA ⟨0, 0, 0, 3, 255, 1⟩) ∧
    exec (.poll 0) (at_ exA ⟨1, 0, 1, 4, 0, 0⟩) = .refused (.lutIndex 4) := ⟨rfl, rfl⟩

theorem witness_FadeStepsComeEveryStepMsTicks :
    ∃ es s h, ReachedBy exA es s h ∧ s.regs.tickFlag = 1 := ⟨_, _, _, reached_tick, by decide⟩

theorem witness_IndexMovesOnceOnlyInFadeSteps :
    (at_ exA ⟨1, 0, 1, 2, 100, 1⟩).Inv ∧ isFadeStep (.poll 0) (at_ exA ⟨1, 0, 1, 2, 100, 1⟩) = true ∧
    exec (.poll 0) (at_ exA ⟨1, 0, 1, 2, 100, 1⟩) = .next (at_ exA ⟨0, 0, 0, 3, 255, 1⟩) ∧
    exec (.poll 1) (at_ exA ⟨1, 0, 1, 0, 0, 0⟩) = .next (at_ exA ⟨0, 0, 0, 0, 0, 0⟩) ∧
    isFadeStep .fine (at_ exA ⟨1, 0, 1, 2, 100, 1⟩) = false := ⟨inv_step_up, rfl, rfl, rfl, rfl⟩

/-- A held door with another FINE and an idle POLL between, open and closed. -/
theorem witness_HeldDoorConvergesToItsEndpoint :
    (at_ exA ⟨1, 0, 1, 2, 100, 1⟩).Inv ∧ Instr.reset ∉ [Instr.poll 0, .poll 1, .fine] ∧
    runEvents [.poll 0, .poll 1, .fine] (at_ exA ⟨1, 0, 1, 2, 100, 1⟩) = .next (at_ exA ⟨0, 1, 0, 3, 255, 1⟩) ∧
    (historyOf [.poll 0, .poll 1, .fine] (at_ exA ⟨1, 0, 1, 2, 100, 1⟩) History.empty).levels = List.replicate 1 0 ∧
    runEvents [.poll 1] (at_ exA ⟨1, 0, 1, 2, 100, 1⟩) = .next (at_ exA ⟨0, 0, 0, 1, 10, 1⟩) ∧
    (historyOf [.poll 1] (at_ exA ⟨1, 0, 1, 2, 100, 1⟩) History.empty).levels = List.replicate 1 1 :=
  ⟨inv_step_up, by decide, rfl, rfl, rfl, rfl⟩

/-- Two different traces whose fade steps sampled the same levels. -/
theorem witness_OnlySampledLevelsMatter :
    isFadeStep (.poll 0) (at_ exA ⟨1, 2, 0, 1, 10, 1⟩) = false ∧
    ReachedBy exB [.fine, .poll 0] (at_ exB ⟨0, 0, 0, 1, 1, 1⟩) ⟨1, 1, 0, 1, [0]⟩ ∧
    ReachedBy exB [.poll 1, .fine, .fine, .poll 0, .fine] (at_ exB ⟨1, 0, 0, 1, 1, 1⟩) ⟨3, 3, 1, 1, [0]⟩ :=
  ⟨rfl, reached_step, ⟨by decide, rfl, rfl⟩⟩

theorem witness_FadeNeverFasterThanItsTicks : ∃ es s h, ReachedBy exB es s h ∧ h.steps = 1 :=
  ⟨_, _, _, reached_step, by decide⟩

theorem witness_EveryTickConsumedLostOrPending :
    ReachedBy exB [.poll 1, .fine, .fine, .poll 0, .fine] (at_ exB ⟨1, 0, 0, 1, 1, 1⟩) ⟨3, 3, 1, 1, [0]⟩ :=
  ⟨by decide, rfl, rfl⟩

theorem witness_FewerConsumedExactlyWhenCoalesced :
    ∃ es s h, ReachedBy exA es s h ∧ h.consumed < h.ticks ∧ h.coalesced = 0 :=
  ⟨_, _, _, reached_tick, by decide, by decide⟩

/-- No tick pending: at the end of P2 (95_test_vectors.md) with a coalesced tick, and after one consumed tick with none. -/
theorem witness_FewerConsumedExactlyWhenCoalescedIfNonePending :
    ReachedBy exA (List.replicate 7 .fine ++ [.poll 0, .poll 0, .fine, .fine, .poll 0])
      (at_ exA ⟨0, 0, 0, 1, 10, 1⟩) ⟨9, 3, 1, 2, [0]⟩ ∧
    ReachedBy exA [.fine, .fine, .fine, .poll 0] (at_ exA ⟨0, 0, 1, 0, 0, 0⟩) ⟨3, 1, 0, 1, []⟩ :=
  ⟨⟨by decide, rfl, by decide⟩, ⟨by decide, rfl, by decide⟩⟩

theorem witness_OutputsChangeOnlyAtFadeSteps :
    (at_ exA ⟨1, 0, 1, 0, 0, 0⟩).Inv ∧ isFadeStep (.poll 0) (at_ exA ⟨1, 0, 1, 0, 0, 0⟩) = true ∧
    exec (.poll 0) (at_ exA ⟨1, 0, 1, 0, 0, 0⟩) = .next (at_ exA ⟨0, 0, 0, 1, 10, 1⟩) ∧
    (at_ exA ⟨0, 0, 0, 0, 0, 0⟩).Inv ∧ isFadeStep .fine (at_ exA ⟨0, 0, 0, 0, 0, 0⟩) = false ∧
    exec .fine (at_ exA ⟨0, 0, 0, 0, 0, 0⟩) = .next (at_ exA ⟨0, 1, 0, 0, 0, 0⟩) :=
  ⟨inv_floor, rfl, rfl, inv_zero, rfl, rfl⟩

theorem witness_OpenDoorNeverDims : (at_ exA ⟨1, 0, 1, 2, 100, 1⟩).Inv ∧
    exec (.poll 0) (at_ exA ⟨1, 0, 1, 2, 100, 1⟩) = .next (at_ exA ⟨0, 0, 0, 3, 255, 1⟩) ∧
    exec (.poll 1) (at_ exA ⟨1, 0, 1, 2, 100, 1⟩) = .next (at_ exA ⟨0, 0, 0, 1, 10, 1⟩) := ⟨inv_step_up, rfl, rfl⟩

/-- A full fade of a table of two entries. -/
theorem witness_FullFadeTakesItsTime :
    ReachedBy ⟨2, 1, 2, [0, 9], 8, 5⟩ [.fine, .fine, .poll 0] (at_ ⟨2, 1, 2, [0, 9], 8, 5⟩ ⟨0, 0, 0, 1, 9, 1⟩)
      ⟨2, 1, 0, 1, [0]⟩ ∧ (1 : Nat) = (⟨2, 1, 2, [0, 9], 8, 5⟩ : Cfg).n - 1 := ⟨⟨by decide, rfl, rfl⟩, by decide⟩

theorem witness_WithoutFineEveryPollIsIdle :
    ReachedBy exA [.poll 0, .reset, .poll 1] (at_ exA ⟨0, 0, 0, 0, 0, 0⟩) History.empty ∧
    Instr.fine ∉ [Instr.poll 0, .reset, .poll 1] := ⟨⟨by decide, rfl, rfl⟩, by decide⟩

theorem witness_TickPseudoMakesOneTick : (at_ exA ⟨0, 0, 0, 0, 0, 0⟩).cfg.WellFormed ∧
    (at_ exA ⟨0, 0, 0, 0, 0, 0⟩).regs.subCnt = 0 := by decide

/-- A state in the middle of a pacing window, with a tick pending. -/
theorem witness_StepPseudoMakesItsFadeSteps : (at_ exA ⟨1, 0, 1, 2, 100, 1⟩).Inv ∧
    (at_ exA ⟨1, 0, 1, 2, 100, 1⟩).regs.subCnt = 0 ∧ 1 ≤ 1 := ⟨inv_step_up, by decide, by decide⟩

/-- Registers that violate R31 to R35, and a RESET word. -/
theorem witness_ResetWordRestartsFromAnything :
    exA.WellFormed ∧ launchOk exA ⟨1, 9, 9, 9, 9, 0⟩ = false ∧
    (⟨⟨1, 9, 9, 9, 9, 0⟩, exA, [0xC0#8, 0x40#8]⟩ : State).pending = 0xC0#8 :: [0x40#8] := by decide

theorem witness_ResetMeetsTheInvariants : exA.WellFormed ∧ exD.WellFormed := by decide

theorem witness_EveryStepKeepsTheInvariants :
    (at_ exA ⟨1, 2, 0, 1, 10, 1⟩).Inv ∧
    step { at_ exA ⟨1, 2, 0, 1, 10, 1⟩ with pending := [0x40#8] } = .next (at_ exA ⟨1, 0, 0, 1, 10, 1⟩) :=
  ⟨inv_pending, rfl⟩

theorem witness_OutputPortsAlwaysGated : ∃ es s h, ReachedBy exB es s h ∧ (outputsOf s.regs).pwmOe = 1 :=
  ⟨_, _, _, reached_step, by decide⟩

theorem witness_WellFormedRunsNeverStop : (at_ exA ⟨1, 2, 0, 1, 10, 1⟩).Inv ∧ decode 0x81#8 = .ok (.poll 1) :=
  ⟨inv_pending, rfl⟩

/-- A FINE from well-formed registers, and a RESET from others. -/
theorem witness_StepRunsTheDecodedEvent :
    exA.WellFormed ∧ (⟨1, 2, 0, 1, 10, 1⟩ : Regs).Inv exA ∧
    (⟨⟨1, 2, 0, 1, 10, 1⟩, exA, [0x40#8]⟩ : State).pending = 0x40#8 :: [] ∧ decode 0x40#8 = .ok .fine ∧
    (⟨⟨1, 9, 9, 9, 9, 0⟩, exA, [0xC0#8]⟩ : State).pending = 0xC0#8 :: [] ∧ decode 0xC0#8 = .ok .reset :=
  ⟨by decide, inv_pending.regs_inv, rfl, rfl, rfl, rfl⟩

theorem witness_NoEventLeavesTheBlockAsItIs : (at_ exA ⟨1, 2, 0, 1, 10, 1⟩).Inv ∧
    (at_ exA ⟨1, 2, 0, 1, 10, 1⟩).pending = [] := ⟨inv_pending, rfl⟩

theorem witness_StepsOverWordsRunTheEvents : (at_ exA ⟨1, 2, 0, 1, 10, 1⟩).Inv := inv_pending

theorem witness_TraceRefusedAtItsInvalidWord : (at_ exA ⟨1, 2, 0, 1, 10, 1⟩).Inv ∧
    decode 0x82#8 = .error .reservedBitsSet := ⟨inv_pending, rfl⟩

theorem witness_SingleWriterPerField :
    exec .fine (at_ exA ⟨0, 2, 0, 0, 0, 0⟩) = .next (at_ exA ⟨1, 0, 0, 0, 0, 0⟩) ∧
    exec (.poll 0) (at_ exA ⟨1, 0, 1, 2, 100, 1⟩) = .next (at_ exA ⟨0, 0, 0, 3, 255, 1⟩) ∧
    exec .reset (at_ exA ⟨1, 0, 1, 2, 100, 1⟩) = .next (at_ exA ⟨0, 0, 0, 0, 0, 0⟩) := ⟨rfl, rfl, rfl⟩

theorem witness_NoEventWritesTheLut :
    exec (.poll 0) (at_ exA ⟨1, 0, 1, 2, 100, 1⟩) = .next (at_ exA ⟨0, 0, 0, 3, 255, 1⟩) ∧
    step (at_ exA ⟨0, 0, 0, 0, 0, 0⟩) = .next (at_ exA ⟨0, 0, 0, 0, 0, 0⟩) := ⟨rfl, rfl⟩

theorem witness_FinePeriodIsNeverRead :
    step { at_ exA ⟨1, 2, 0, 1, 10, 1⟩ with pending := [0x40#8] } = .next (at_ exA ⟨1, 0, 0, 1, 10, 1⟩) ∧
    step { at_ exA ⟨1, 2, 0, 1, 10, 1⟩ with pending := [0x41#8] } = .refused (.invalidWord 0x41#8 .operandBitSet) :=
  ⟨rfl, rfl⟩

/-- The counters at their largest. -/
theorem witness_NoCounterOverflowsItsWidth : (at_ exA ⟨1, 2, 1, 3, 255, 1⟩).Inv := inv_of (by decide) (by decide)

/-- A FINE between the read and the clear, another in the middle of the fade step. -/
theorem witness_InterleavedPollIsSerial :
    interleave exA 0 [.mainLoop, .interrupt, .mainLoop, .mainLoop, .mainLoop, .mainLoop, .interrupt, .mainLoop, .mainLoop,
      .mainLoop, .mainLoop] (.readFlag, ⟨1, 2, 1, 2, 100, 1⟩) = (.finished, ⟨0, 1, 0, 3, 255, 1⟩) := rfl

/-- A FINE that is a tick event and one that is not. -/
theorem witness_FineAndPollAtOneInstant :
    (at_ exA ⟨1, 2, 0, 1, 10, 1⟩).Inv ∧ isTickEvent .fine (at_ exA ⟨1, 2, 0, 1, 10, 1⟩) = true ∧
    (at_ exA ⟨0, 0, 0, 0, 0, 0⟩).Inv ∧ isTickEvent .fine (at_ exA ⟨0, 0, 0, 0, 0, 0⟩) = false :=
  ⟨inv_pending, rfl, inv_zero, rfl⟩

theorem witness_ResetWithAnotherEventAtOneInstant : (at_ exA ⟨1, 2, 0, 1, 10, 1⟩).Inv := inv_pending

end Sys2Proof.Machine.Tests
end

section
/-! The counters and the fade index fit their least widths (R9, R111). -/

namespace Sys2Proof

/-- `ceilLog2 m` bits count `m` values; for `m <= 1` that is the model's reading (log 10). -/
theorem le_two_pow_ceilLog2 (m : Nat) : m ≤ 2 ^ ceilLog2 m := by
  unfold ceilLog2
  split
  case isTrue hm => simpa using hm
  case isFalse hm =>
    have hlog : m - 1 < 2 ^ (Nat.log2 (m - 1) + 1) := Nat.lt_log2_self
    omega

theorem thresh_lt_two_pow_subCntBits (c : Cfg) : c.thresh < 2 ^ c.subCntBits :=
  le_two_pow_ceilLog2 (c.thresh + 1)

theorem stepMs_lt_two_pow_stepCntBits (c : Cfg) : c.stepMs < 2 ^ c.stepCntBits :=
  le_two_pow_ceilLog2 (c.stepMs + 1)

/-- The `max 1` of the register summary only widens FADE_IDX. -/
theorem n_le_two_pow_fadeIdxBits (c : Cfg) : c.n ≤ 2 ^ c.fadeIdxBits :=
  calc c.n ≤ 2 ^ ceilLog2 c.n := le_two_pow_ceilLog2 c.n
    _ ≤ 2 ^ c.fadeIdxBits := Nat.pow_le_pow_right Nat.two_pos (Nat.le_max_right 1 (ceilLog2 c.n))

namespace Machine

/-- Settles O52: R32 to R34 put each register below its bound in CFG, and each bound fits in its width. -/
theorem noCounterOverflowsItsWidth : Obligations.NoCounterOverflowsItsWidth := by
  intro s ⟨_, hregs⟩
  have hsub : s.regs.subCnt + 1 ≤ s.cfg.thresh := hregs.subCnt_lt
  have hstep : s.regs.stepCnt + 1 ≤ s.cfg.stepMs := hregs.stepCnt_lt
  exact ⟨hsub, Nat.lt_of_le_of_lt hsub (thresh_lt_two_pow_subCntBits s.cfg),
    hstep, Nat.lt_of_le_of_lt hstep (stepMs_lt_two_pow_stepCntBits s.cfg),
    Nat.lt_of_lt_of_le hregs.fadeIdx_lt (n_le_two_pow_fadeIdxBits s.cfg)⟩

end Machine
end Sys2Proof
end

section
/-! What a completed FINE or POLL writes (R29), and what a step answers for each delivery (R36, R142). -/

namespace Sys2Proof.Machine

variable {s t : State} {p : Bit}

/-! ### FINE and POLL, register by register -/

/-- FINE writes no other value than 1 into TICK_FLAG (R29, R82). -/
theorem fineRegs_tickFlag_eq_or_one (c : Cfg) (r : Regs) :
    (fineRegs c r).tickFlag = r.tickFlag ∨ (fineRegs c r).tickFlag = 1 := by
  rcases fineRegs_cases c r with ⟨-, e⟩ | ⟨-, e⟩ <;> rw [e]
  · exact .inr (setTick_tickFlag _)
  · exact .inl (writeSubCnt_tickFlag _ _)

/-- FINE writes only SUB_CNT and TICK_FLAG (R29). -/
theorem fineRegs_eq_update (c : Cfg) (r : Regs) :
    fineRegs c r = { r with subCnt := (fineRegs c r).subCnt, tickFlag := (fineRegs c r).tickFlag } := by
  rcases fineRegs_cases c r with ⟨-, e⟩ | ⟨-, e⟩ <;> rw [e] <;> rfl

@[simp] theorem fadeStepRegs_tickFlag (c : Cfg) (p : Bit) (r : Regs) (d : Nat) :
    (fadeStepRegs c p r d).tickFlag = 0 := rfl
@[simp] theorem fadeStepRegs_subCnt (c : Cfg) (p : Bit) (r : Regs) (d : Nat) :
    (fadeStepRegs c p r d).subCnt = r.subCnt := rfl
@[simp] theorem fadeStepRegs_stepCnt (c : Cfg) (p : Bit) (r : Regs) (d : Nat) :
    (fadeStepRegs c p r d).stepCnt = 0 := rfl

/-- The three ways POLL can complete: idle (R101), pace (R103) and a fade step (R104 to R110). -/
theorem exec_poll_next_cases (h : exec (.poll p) s = .next t) :
    (s.regs.tickFlag = 0 ∧ t = s) ∨
    (s.regs.tickFlag = 1 ∧ s.regs.stepCnt + 1 < s.cfg.stepMs ∧
      t = withRegs s (writeStepCnt (s.regs.stepCnt + 1) (clearTick s.regs))) ∨
    (s.regs.tickFlag = 1 ∧ s.cfg.stepMs ≤ s.regs.stepCnt + 1 ∧
      ∃ d, lutRead s.cfg (sequencer s.cfg.n (doorOpen p) s.regs.fadeIdx) = some d ∧
        t = withRegs s (fadeStepRegs s.cfg p s.regs d)) := by
  rcases exec_poll_cases p s with ⟨hf, e⟩ | ⟨hf, hc, e⟩ | ⟨hf, hc, ⟨d, hl, e⟩ | ⟨-, e⟩⟩ <;>
    rw [e] at h <;> cases h
  case inl => exact .inl ⟨hf, rfl⟩
  case inr.inl => exact .inr (.inl ⟨hf, hc, rfl⟩)
  case inr.inr => exact .inr (.inr ⟨hf, hc, d, hl, rfl⟩)

/-- POLL never writes SUB_CNT (R29). -/
theorem exec_poll_subCnt (h : exec (.poll p) s = .next t) : t.regs.subCnt = s.regs.subCnt := by
  rcases exec_poll_next_cases h with ⟨-, rfl⟩ | ⟨-, -, rfl⟩ | ⟨-, -, d, -, rfl⟩ <;> simp

/-- No tick is pending after a POLL: there was none, or it is consumed (R101, R102). -/
theorem exec_poll_tickFlag (h : exec (.poll p) s = .next t) : t.regs.tickFlag = 0 := by
  rcases exec_poll_next_cases h with ⟨hf, rfl⟩ | ⟨-, -, rfl⟩ | ⟨-, -, d, -, rfl⟩
  · exact hf
  · simp
  · simp

/-- An idle POLL leaves the whole state (R101). -/
theorem exec_poll_idle (h : exec (.poll p) s = .next t) (hf : s.regs.tickFlag = 0) : t = s := by
  rcases exec_poll_next_cases h with ⟨-, e⟩ | ⟨hf', -⟩ | ⟨hf', -⟩
  · exact e
  · simp [hf] at hf'
  · simp [hf] at hf'

/-- Only a completed fade step writes FADE_IDX, PWM_DUTY and PWM_OE (R103, R104). -/
theorem exec_poll_fadeState (h : exec (.poll p) s = .next t) (hn : isFadeStep (.poll p) s = false) :
    fadeState t.regs = fadeState s.regs := by
  rcases exec_poll_next_cases h with ⟨-, rfl⟩ | ⟨-, -, rfl⟩ | ⟨hf, hc, -⟩
  · rfl
  · simp [fadeState]
  · simp [isFadeStep_poll.2 ⟨hf, hc⟩] at hn

/-- A completed fade step restarts the step-delay counter (R103). -/
theorem exec_poll_fadeStep_stepCnt (h : exec (.poll p) s = .next t) (hy : isFadeStep (.poll p) s = true) :
    t.regs.stepCnt = 0 := by
  obtain ⟨hf, hc⟩ := isFadeStep_poll.1 hy
  rcases exec_poll_next_cases h with ⟨hf', -⟩ | ⟨-, hc', -⟩ | ⟨-, -, d, -, rfl⟩
  · simp [hf] at hf'
  · omega
  · simp

/-- Settles O18, from the three ways POLL can complete. -/
theorem pollFrame : Obligations.PollFrame := by
  intro p s t h
  obtain ⟨hcfg, hpending⟩ := exec_frame h
  exact ⟨exec_poll_subCnt h, hcfg, hpending, fun i => by rw [hcfg], exec_poll_tickFlag h,
    fun hf => by rw [exec_poll_idle h hf], exec_poll_fadeState h, exec_poll_fadeStep_stepCnt h⟩

/-- Settles O49: FINE by its two cases, POLL by its frame, and RESET because its result is all zeros. -/
theorem singleWriterPerField : Obligations.SingleWriterPerField := by
  intro s t
  refine ⟨fun h => ?fine, fun p h => ?poll, fun h r => ?reset⟩
  case fine =>
    cases h
    exact ⟨fineRegs_eq_update s.cfg s.regs, fineRegs_tickFlag_eq_or_one s.cfg s.regs⟩
  case poll => exact ⟨exec_poll_subCnt h, .inr (exec_poll_tickFlag h)⟩
  case reset => rwa [exec_reset] at h ⊢

/-! ### What a step answers for each delivery -/

theorem step_of_silence (h : delivery s = .silence) : step s = .next s := by simp [step, h]

theorem step_of_refuse {why : Refusal} (h : delivery s = .refuse why) : step s = .refused why := by simp [step, h]

theorem step_of_event {i : Instr} {rest : List EventWord} (h : delivery s = .event i rest) :
    step s = exec i (takeWord s rest) := by simp [step, h]

/-- At the end of the trace a well-formed state is left alone (R30, R143). -/
theorem delivery_eq_silence (hs : s.Inv) (hp : s.pending = []) : delivery s = .silence := by
  have hc : s.cfg.firstFailed = none := hs.cfg_wf
  simp [delivery, hc, hp, launchOk_iff.2 hs.regs_inv]

/-- Settles O44. -/
theorem noEventLeavesTheBlockAsItIs : Obligations.NoEventLeavesTheBlockAsItIs :=
  fun _ hs hp => step_of_silence (delivery_eq_silence hs hp)

/-- No event checks the launch state itself: POLL's only refusal is the LUT index (R142(d)). -/
theorem exec_ne_refused_launchState (i : Instr) (s : State) : exec i s ≠ .refused .launchState := by
  cases i with
  | fine => simp [exec_fine]
  | reset => simp [exec_reset]
  | poll p =>
    rcases exec_poll_cases p s with ⟨-, e⟩ | ⟨-, -, e⟩ | ⟨-, -, ⟨d, -, e⟩ | ⟨-, e⟩⟩ <;> simp [e]

/-- A bad launch state is refused by the delivery or not at all (R36). -/
theorem step_eq_refused_launchState_iff : step s = .refused .launchState ↔ delivery s = .refuse .launchState := by
  cases hd : delivery s with
  | refuse why => simp [step_of_refuse hd]
  | silence => simp [step_of_silence hd]
  | event i rest => simp [step_of_event hd, exec_ne_refused_launchState]

/-- When the delivery refuses the launch state: the last of its checks, and not made before a RESET (log 5, log 6). -/
theorem delivery_eq_refuse_launchState_iff : delivery s = .refuse .launchState ↔
    s.cfg.WellFormed ∧ ¬ s.regs.Inv s.cfg ∧
    (s.pending = [] ∨ ∃ w rest i, s.pending = w :: rest ∧ decode w = .ok i ∧ i ≠ .reset) := by
  rcases delivery_cases s with ⟨k, hc, e⟩ | ⟨hc, ⟨hp, hr, e⟩ | ⟨hp, hr, e⟩ | ⟨w, rest, hp, h⟩⟩
  · simp [e, Cfg.WellFormed, hc]
  · simp [e, hr]
  · exact iff_of_true e ⟨hc, hr, .inl hp⟩
  · rcases h with ⟨why, hd, e⟩ | ⟨i, hd, ⟨hi, e⟩ | ⟨hi, hr, e⟩⟩
    · simp [e, hp, hd]
    · rcases hi with rfl | hr
      · simp [e, hp, hd]
      · simp [e, hr]
    · exact iff_of_true e ⟨hc, hr, .inr ⟨w, rest, i, hp, hd, hi⟩⟩

/-- Settles O48: only the delivery refuses a launch state, and its cases say when. -/
theorem badLaunchStateRefused : Obligations.BadLaunchStateRefused :=
  fun _ => step_eq_refused_launchState_iff.trans delivery_eq_refuse_launchState_iff

end Sys2Proof.Machine
end

section
/-! Every event completes from a well-formed state, in a well-formed state (R31 to R35, R141), and the three ways POLL
completes as equations (R101, R103, R104). -/

namespace Sys2Proof

variable {c : Cfg}

theorem Cfg.WellFormed.thresh_pos (hc : c.WellFormed) : 0 < c.thresh := by
  simpa [Cfg.passes, Nat.lt_iff_add_one_le] using Machine.wellFormed_iff_passes.1 hc .wf1

theorem Cfg.WellFormed.stepMs_pos (hc : c.WellFormed) : 0 < c.stepMs := by
  simpa [Cfg.passes, Nat.lt_iff_add_one_le] using Machine.wellFormed_iff_passes.1 hc .wf2

theorem Cfg.WellFormed.n_pos (hc : c.WellFormed) : 0 < c.n := by
  simpa [Cfg.passes, Nat.lt_iff_add_one_le] using Machine.wellFormed_iff_passes.1 hc .wf3

theorem Cfg.WellFormed.lut_length (hc : c.WellFormed) : c.lut.length = c.n := by
  simpa [Cfg.passes] using Machine.wellFormed_iff_passes.1 hc .wf4

theorem Cfg.WellFormed.lut_zero (hc : c.WellFormed) : c.lut[0]? = some 0 := by
  simpa [Cfg.passes, List.head?_eq_getElem?] using Machine.wellFormed_iff_passes.1 hc .wf5

namespace Machine

variable {r : Regs} {s t : State} {p : Bit}

/-- An index inside an accepted table has an entry (R41). -/
theorem exists_lutRead_eq_some (hc : c.WellFormed) {i : Nat} (hi : i < c.n) : ∃ d, lutRead c i = some d :=
  ⟨c.lut[i]'(hc.lut_length.symm ▸ hi), lutRead_eq_some.2 ⟨hi, List.getElem?_eq_getElem _⟩⟩

theorem Regs.Inv.reset (hc : c.WellFormed) : Regs.reset.Inv c :=
  ⟨hc.thresh_pos, hc.stepMs_pos, hc.n_pos, hc.lut_zero, rfl⟩

theorem Regs.Inv.fineRegs (hc : c.WellFormed) (hr : r.Inv c) : (fineRegs c r).Inv c := by
  have hsub : (Machine.fineRegs c r).subCnt < c.thresh := by
    rcases fineRegs_cases c r with ⟨-, e⟩ | ⟨h, e⟩ <;> rw [e]
    · exact hc.thresh_pos
    · exact h
  exact ⟨hsub, by simpa using hr.stepCnt_lt, by simpa using hr.fadeIdx_lt, by simpa using hr.duty_eq,
    by simpa using hr.gated⟩

theorem Regs.Inv.pacing (hr : r.Inv c) (hp : r.stepCnt + 1 < c.stepMs) :
    (writeStepCnt (r.stepCnt + 1) (clearTick r)).Inv c :=
  ⟨hr.subCnt_lt, hp, hr.fadeIdx_lt, hr.duty_eq, hr.gated⟩

/-- The entry a fade step looked up is the one at its new index (R107 to R109). -/
theorem Regs.Inv.fadeStepRegs (hc : c.WellFormed) (hr : r.Inv c) {d : Nat}
    (hl : lutRead c (sequencer c.n (doorOpen p) r.fadeIdx) = some d) : (fadeStepRegs c p r d).Inv c :=
  have ⟨hi, hd⟩ := lutRead_eq_some.1 hl
  ⟨hr.subCnt_lt, hc.stepMs_pos, hi, hd, outputEnable_eq d⟩

theorem State.Inv.fine (hs : s.Inv) : (withRegs s (Machine.fineRegs s.cfg s.regs)).Inv :=
  ⟨hs.cfg_wf, hs.regs_inv.fineRegs hs.cfg_wf⟩

/-- From a well-formed state every event completes, in a well-formed state (R141). -/
theorem exec_completes (hs : s.Inv) (i : Instr) : ∃ t, exec i s = .next t ∧ t.Inv := by
  have ⟨hc, hr⟩ := hs
  cases i with
  | fine => exact ⟨_, exec_fine s, hs.fine⟩
  | reset => exact ⟨_, exec_reset s, hc, .reset hc⟩
  | poll p =>
    rcases exec_poll_cases p s with ⟨-, e⟩ | ⟨-, hp, e⟩ | ⟨-, -, ⟨d, hl, e⟩ | ⟨hl, -⟩⟩
    · exact ⟨_, e, hc, hr⟩
    · exact ⟨_, e, hc, hr.pacing hp⟩
    · exact ⟨_, e, hc, hr.fadeStepRegs hc hl⟩
    · obtain ⟨d, hd⟩ := exists_lutRead_eq_some hc (sequencer_lt (doorOpen p) hr.fadeIdx_lt)
      simp [hl] at hd

theorem exec_poll_of_noTick (p : Bit) (hf : s.regs.tickFlag = 0) : exec (.poll p) s = .next s := by
  simp [exec, execPoll, tickPending, hf]

theorem exec_poll_of_pacing (p : Bit) (hf : s.regs.tickFlag = 1) (hp : s.regs.stepCnt + 1 < s.cfg.stepMs) :
    exec (.poll p) s = .next (withRegs s (writeStepCnt (s.regs.stepCnt + 1) (clearTick s.regs))) := by
  simp [exec, execPoll, hf, hp]

theorem exec_poll_of_fadeStep (hf : s.regs.tickFlag = 1) (hp : s.cfg.stepMs ≤ s.regs.stepCnt + 1) {d : Nat}
    (hl : lutRead s.cfg (sequencer s.cfg.n (doorOpen p) s.regs.fadeIdx) = some d) :
    exec (.poll p) s = .next (withRegs s (fadeStepRegs s.cfg p s.regs d)) := by
  simp [exec, execPoll, completeFadeStep, fadeStepRegs, hf, Nat.not_lt.2 hp, hl]

/-- POLL carries any value of SUB_CNT along: it neither reads nor writes it (R22). -/
theorem exec_poll_writeSubCnt (h : exec (.poll p) s = .next t) (v : Nat) :
    exec (.poll p) (withRegs s (writeSubCnt v s.regs)) = .next (withRegs t (writeSubCnt v t.regs)) := by
  rcases exec_poll_next_cases h with ⟨hf, rfl⟩ | ⟨hf, hp, rfl⟩ | ⟨hf, hp, d, hl, rfl⟩
  · exact exec_poll_of_noTick p hf
  · exact exec_poll_of_pacing p hf hp
  · exact exec_poll_of_fadeStep (s := withRegs s (writeSubCnt v s.regs)) hf hp hl

end Machine
end Sys2Proof
end

section
/-! One step at a decodable word (R49), the configuration under every event and step (R42), and steps over an encoded
trace (R60). -/

namespace Sys2Proof

theorem decode_encode (i : Instr) : decode (encode i) = .ok i := by
  cases i with
  | fine => rfl
  | reset => rfl
  | poll p => simp [decode, encode]

namespace Machine

variable {s : State}

/-- Which event is delivered: the one the next word decodes to, behind the checks of R142. -/
theorem delivery_eq_event {w : EventWord} {rest : List EventWord} {i : Instr} (hc : s.cfg.WellFormed)
    (hi : i = .reset ∨ s.regs.Inv s.cfg) (hp : s.pending = w :: rest) (hd : decode w = .ok i) :
    delivery s = .event i rest := by
  have hc' : s.cfg.firstFailed = none := hc
  have hm : mayDeliver s.cfg s.regs i = true := by simpa [mayDeliver, launchOk_iff] using hi
  simp [delivery, hc', hp, hd, hm]

/-- Settles O43: the checks pass, so the delivery is the decoded event. -/
theorem stepRunsTheDecodedEvent : Obligations.StepRunsTheDecodedEvent :=
  fun _ _ _ _ hc hi hp hd => step_of_event (delivery_eq_event hc hi hp hd)

/-- No step changes the configuration: it refuses, leaves the state, or runs an event, which does not (R42). -/
theorem step_cfg {t : State} (h : step s = .next t) : t.cfg = s.cfg := by
  cases hd : delivery s with
  | refuse why => simp [step_of_refuse hd] at h
  | silence => rw [step_of_silence hd] at h; cases h; rfl
  | event i rest =>
    rw [step_of_event hd] at h
    exact (exec_frame h).1

/-- Settles O50, by the frame of `exec` and that of `step`. -/
theorem noEventWritesTheLut : Obligations.NoEventWritesTheLut := by
  refine ⟨fun i s t h => ?_, fun s t h => step_cfg h⟩
  have hcfg : t.cfg = s.cfg := (exec_frame h).1
  exact ⟨hcfg, fun j => by rw [hcfg]⟩

/-- One step over an encoded event is that event, with its word taken off. -/
theorem step_encode (hs : s.Inv) (i : Instr) (ws : List EventWord) :
    step (takeWord s (encode i :: ws)) = exec i (takeWord s ws) :=
  stepRunsTheDecodedEvent (takeWord s (encode i :: ws)) _ ws i hs.cfg_wf (.inr hs.regs_inv) rfl (decode_encode i)

/-- Steps over an encoded trace are the run of its events: induction on the trace, each event from the well-formed state
that the one before it left. -/
theorem run_encodeTrace (es : List Instr) (rest : List EventWord) (hs : s.Inv) :
    core.run es.length (takeWord s (encodeTrace es ++ rest)) = runEvents es (takeWord s rest) := by
  induction es generalizing s with
  | nil => rfl
  | cons i es ih =>
    obtain ⟨t, ht, hti⟩ := exec_completes hs i
    have hexec (ws : List EventWord) : exec i (takeWord s ws) = .next (takeWord t ws) :=
      (exec_takeWord i s ws).1 t ht
    rw [runEvents_cons_next es (hexec rest), ← ih hti]
    exact core_run_next es.length ((step_encode hs i _).trans (hexec _))

/-- Settles O45, by induction on the trace (`run_encodeTrace`). -/
theorem stepsOverWordsRunTheEvents : Obligations.StepsOverWordsRunTheEvents :=
  fun es _ rest hs => run_encodeTrace es rest hs

end Machine
end Sys2Proof
end

section
/-! FINE and POLL at one instant (R52, D13). -/

namespace Sys2Proof.Machine

variable {s t u : State} {p : Bit}

theorem instantOutcomes_fine_poll (p : Bit) (s : State) :
    instantOutcomes ⟨0, 1, 1, p⟩ s = [runEvents [.poll p, .fine] s, runEvents [.fine, .poll p] s] := rfl

/-- Two events that complete one after the other. -/
theorem runEvents_pair {i j : Instr} (hi : exec i s = .next t) (hj : exec j t = .next u) :
    runEvents [i, j] s = .next u := by
  rw [runEvents_cons_next _ hi, runEvents_cons_next _ hj, runEvents_nil]

/-- A FINE that is no tick event only counts, and POLL neither reads nor writes the count: the order does not matter. -/
theorem poll_fine_comm_of_noTickEvent (hn : s.regs.subCnt + 1 < s.cfg.thresh) (hp : exec (.poll p) s = .next t) :
    exec (.poll p) (withRegs s (fineRegs s.cfg s.regs)) = .next (withRegs t (fineRegs t.cfg t.regs)) := by
  have hsub : t.regs.subCnt = s.regs.subCnt := exec_poll_subCnt hp
  have hcfg : t.cfg = s.cfg := (exec_frame hp).1
  rw [fineRegs_count hn, fineRegs_count (by rwa [hsub, hcfg]), hsub]
  exact exec_poll_writeSubCnt hp _

/-- Settles O54: without a tick event the two events commute, and with one the two results differ in TICK_FLAG. -/
theorem fineAndPollAtOneInstant : Obligations.FineAndPollAtOneInstant := by
  intro p s hs
  obtain ⟨t, ht, -⟩ := exec_completes hs (.poll p)
  obtain ⟨b, hb, -⟩ := exec_completes hs.fine (.poll p)
  have ha := runEvents_pair ht (exec_fine t)
  have hb' := runEvents_pair (exec_fine s) hb
  refine ⟨_, b, by rw [instantOutcomes_fine_poll, ha, hb'], ha, hb', ?_⟩
  have hbflag : b.regs.tickFlag = 0 := exec_poll_tickFlag hb
  cases hk : isTickEvent .fine s with
  | false =>
    have hn : s.regs.subCnt + 1 < s.cfg.thresh := by simpa [isTickEvent] using hk
    cases (poll_fine_comm_of_noTickEvent hn ht).symm.trans hb
    exact ⟨iff_of_true rfl rfl, fun h => by cases h⟩
  | true =>
    have hreach : t.cfg.thresh ≤ t.regs.subCnt + 1 := by
      rw [(exec_frame ht).1, exec_poll_subCnt ht]
      exact isTickEvent_fine.1 hk
    have haflag : (withRegs t (fineRegs t.cfg t.regs)).regs.tickFlag = 1 := by simp [fineRegs_tick hreach]
    have hne : withRegs t (fineRegs t.cfg t.regs) ≠ b := fun e => by rw [← e, haflag] at hbflag; cases hbflag
    exact ⟨iff_of_false hne (by decide), fun _ => ⟨haflag, hbflag⟩⟩

end Sys2Proof.Machine
end

section
/-! The source's POLL, its nine accesses interleaved with FINEs, is serial (R51, D12). A FINE before the clear of
TICK_FLAG can run before the POLL, because the flag it may set is cleared; one after the clear commutes with every
access that is left, so it can run behind the POLL. -/

namespace Sys2Proof.Machine

variable {c : Cfg} {p : Bit} {r q : Regs} {s : State}

/-! ### The accesses with no FINE between them -/

theorem interleave_append (ts us : List Turn) (x : PollPhase × Regs) :
    interleave c p (ts ++ us) x = interleave c p us (interleave c p ts x) := by
  induction ts generalizing x with
  | nil => rfl
  | cons turn ts ih => cases turn <;> exact ih _

/-- A phase at which the source's POLL has stopped stays as it is. -/
theorem interleave_mainLoops_of_stopped {x : PollPhase × Regs} (hx : pollAccess c p x.1 x.2 = x) (k : Nat) :
    interleave c p (List.replicate k .mainLoop) x = x := by
  induction k with
  | zero => rfl
  | succ k ih => rw [List.replicate_succ, interleave, hx, ih]

/-- Two uninterrupted runs that have both stopped have stopped alike. -/
theorem mainLoops_stopped_unique {x y z : PollPhase × Regs} {j k : Nat}
    (hj : interleave c p (List.replicate j .mainLoop) x = y) (hy : pollAccess c p y.1 y.2 = y)
    (hk : interleave c p (List.replicate k .mainLoop) x = z) (hz : pollAccess c p z.1 z.2 = z) : y = z :=
  calc y
    _ = interleave c p (List.replicate (j + k) .mainLoop) x := by
      rw [← List.replicate_append_replicate, interleave_append, hj, interleave_mainLoops_of_stopped hy]
    _ = interleave c p (List.replicate (k + j) .mainLoop) x := by rw [Nat.add_comm]
    _ = z := by rw [← List.replicate_append_replicate, interleave_append, hk, interleave_mainLoops_of_stopped hz]

/-- The nine accesses of the source's POLL, once finished with no FINE between them, are the atomic POLL (R100; D12). -/
theorem exec_poll_of_mainLoops {k : Nat}
    (h : interleave s.cfg p (List.replicate k .mainLoop) (.readFlag, s.regs) = (.finished, q)) :
    exec (.poll p) s = .next (withRegs s q) := by
  have stopsAt {y : PollPhase × Regs}
      (h9 : interleave s.cfg p (List.replicate 9 .mainLoop) (.readFlag, s.regs) = y)
      (hy : pollAccess s.cfg p y.1 y.2 = y) : y = (.finished, q) := mainLoops_stopped_unique h9 hy h rfl
  rcases exec_poll_cases p s with ⟨hf, e⟩ | ⟨hf, hp, e⟩ | ⟨hf, hp, ⟨d, hl, e⟩ | ⟨hl, -⟩⟩
  case inl =>
    cases stopsAt (y := (.finished, s.regs)) (by simp [interleave, pollAccess, tickPending, hf]) rfl
    exact e
  case inr.inl =>
    cases stopsAt (y := (.finished, writeStepCnt (s.regs.stepCnt + 1) (clearTick s.regs)))
      (by simp [interleave, pollAccess, hf, hp]) rfl
    exact e
  case inr.inr.inl =>
    cases stopsAt (y := (.finished, fadeStepRegs s.cfg p s.regs d))
      (by simp [interleave, pollAccess, fadeStepRegs, commitOutputs, hf, Nat.not_lt.2 hp, hl]) rfl
    exact e
  case inr.inr.inr =>
    cases stopsAt (y := (.outside (sequencer s.cfg.n (doorOpen p) s.regs.fadeIdx),
        writeFadeIdx (sequencer s.cfg.n (doorOpen p) s.regs.fadeIdx) (writeStepCnt 0 (clearTick s.regs))))
      (by simp [interleave, pollAccess, hf, Nat.not_lt.2 hp, hl]) rfl

/-! ### After the clear, every FINE can wait until the accesses are done -/

/-- A FINE before a schedule that starts after the clear can run behind it instead. -/
theorem interleave_fineRegs (ts : List Turn) {ph : PollPhase} (hph : ph.afterClear = true) (r : Regs) :
    interleave c p ts (ph, fineRegs c r) =
      ((interleave c p ts (ph, r)).1, fineRegs c (interleave c p ts (ph, r)).2) := by
  induction ts generalizing ph r with
  | nil => rfl
  | cons turn ts ih =>
    cases turn with
    | interrupt => exact ih hph _
    | mainLoop =>
      obtain ⟨hcomm, hafter⟩ := pollAccess_fineRegs c r p ph hph
      rw [interleave, hcomm]
      exact ih hafter _

/-- `n` FINEs on the registers, one after the other. -/
def finesRegs (c : Cfg) : Nat → Regs → Regs
  | 0, r => r
  | n + 1, r => finesRegs c n (fineRegs c r)

/-- A trace of `n` FINEs is `finesRegs` (R80). -/
theorem runEvents_fines (n : Nat) (s : State) :
    runEvents (List.replicate n .fine) s = .next (withRegs s (finesRegs s.cfg n s.regs)) := by
  induction n generalizing s with
  | zero => rfl
  | succ n ih => rw [List.replicate_succ, runEvents_cons_next _ (exec_fine s), ih]; rfl

/-- After the clear, a schedule does what its accesses do, and then its FINEs. -/
theorem interleave_sorted (ts : List Turn) {ph : PollPhase} (hph : ph.afterClear = true) (r : Regs) :
    interleave c p ts (ph, r) =
      ((interleave c p (List.replicate (ts.count .mainLoop) .mainLoop) (ph, r)).1,
        finesRegs c (ts.count .interrupt)
          (interleave c p (List.replicate (ts.count .mainLoop) .mainLoop) (ph, r)).2) := by
  induction ts generalizing ph r with
  | nil => rfl
  | cons turn ts ih =>
    cases turn with
    | interrupt =>
      rw [List.count_cons_self, List.count_cons_of_ne (by decide), interleave, ih hph, interleave_fineRegs _ hph]
      rfl
    | mainLoop =>
      obtain ⟨-, hafter⟩ := pollAccess_fineRegs c r p ph hph
      rw [List.count_cons_self, List.count_cons_of_ne (by decide), List.replicate_succ,
        interleave, interleave, ih hafter]

/-! ### The serial results -/

/-- `q` is what some order of `n` FINEs around one atomic POLL leaves of `s` (R51). -/
def IsSerialResult (p : Bit) (s : State) (n : Nat) (q : Regs) : Prop :=
  ∃ before after, before + after = n ∧
    runEvents (List.replicate before .fine ++ .poll p :: List.replicate after .fine) s = .next (withRegs s q)

/-- One more FINE in front. -/
theorem IsSerialResult.of_fine {n : Nat} (h : IsSerialResult p (withRegs s (fineRegs s.cfg s.regs)) n q) :
    IsSerialResult p s (n + 1) q := by
  obtain ⟨before, after, hn, hrun⟩ := h
  refine ⟨before + 1, after, by omega, ?_⟩
  rwa [List.replicate_succ, List.cons_append, runEvents_cons_next _ (exec_fine s)]

/-- The POLL first: its accesses with no FINE between them, and then the FINEs. -/
theorem IsSerialResult.of_mainLoops {k n : Nat} {r : Regs}
    (h : interleave s.cfg p (List.replicate k .mainLoop) (.readFlag, s.regs) = (.finished, r)) :
    IsSerialResult p s n (finesRegs s.cfg n r) := by
  refine ⟨0, n, Nat.zero_add n, ?_⟩
  rw [List.replicate_zero, List.nil_append, runEvents_cons_next _ (exec_poll_of_mainLoops h), runEvents_fines]
  rfl

/-- A schedule that goes on after the clear, behind `m` accesses with no FINE between them: the POLL first. -/
theorem isSerialResult_of_afterClear {m : Nat} {ph : PollPhase} (ts : List Turn) (hph : ph.afterClear = true)
    (hm : interleave s.cfg p (List.replicate m .mainLoop) (.readFlag, s.regs) = (ph, r))
    (h : interleave s.cfg p ts (ph, r) = (.finished, q)) : IsSerialResult p s (ts.count .interrupt) q := by
  rw [interleave_sorted ts hph, ← hm, ← interleave_append, List.replicate_append_replicate, Prod.mk.injEq] at h
  obtain ⟨hfin, rfl⟩ := h
  exact .of_mainLoops (Prod.ext hfin rfl)

/-- Between the read that saw a tick and the clear: the FINEs before the clear run before the POLL, which sees a tick
still, since no FINE takes one away (R29). -/
theorem isSerialResult_of_clearFlag (ts : List Turn) (hf : s.regs.tickFlag = 1)
    (h : interleave s.cfg p ts (.clearFlag, s.regs) = (.finished, q)) : IsSerialResult p s (ts.count .interrupt) q := by
  induction ts generalizing s with
  | nil => cases h
  | cons turn ts ih =>
    cases turn with
    | interrupt =>
      have hf' : (fineRegs s.cfg s.regs).tickFlag = 1 := by
        rcases fineRegs_tickFlag_eq_or_one s.cfg s.regs with e | e
        · exact e.trans hf
        · exact e
      rw [List.count_cons_self]
      exact .of_fine (ih (s := withRegs s (fineRegs s.cfg s.regs)) hf' h)
    | mainLoop =>
      rw [List.count_cons_of_ne (by decide)]
      exact isSerialResult_of_afterClear (m := 2) ts rfl (by simp [interleave, pollAccess, hf]) h

/-- Before the read: the FINEs before it run before the POLL. -/
theorem isSerialResult_of_readFlag (ts : List Turn)
    (h : interleave s.cfg p ts (.readFlag, s.regs) = (.finished, q)) : IsSerialResult p s (ts.count .interrupt) q := by
  induction ts generalizing s with
  | nil => cases h
  | cons turn ts ih =>
    cases turn with
    | interrupt =>
      rw [List.count_cons_self]
      exact .of_fine (ih (s := withRegs s (fineRegs s.cfg s.regs)) h)
    | mainLoop =>
      rw [List.count_cons_of_ne (by decide)]
      rcases Bit.zero_or_one s.regs.tickFlag with hf | hf
      · have hread : pollAccess s.cfg p .readFlag s.regs = (.finished, s.regs) := by simp [pollAccess, tickPending, hf]
        rw [interleave, hread] at h
        exact isSerialResult_of_afterClear (m := 1) ts rfl hread h
      · have hread : pollAccess s.cfg p .readFlag s.regs = (.clearFlag, s.regs) := by simp [pollAccess, hf]
        rw [interleave, hread] at h
        exact isSerialResult_of_clearFlag ts hf h

/-- Settles O53: by induction on the schedule, the FINEs up to the clear (or up to a read that sees no tick) run before
the atomic POLL, and the rest behind it. -/
theorem interleavedPollIsSerial : Obligations.InterleavedPollIsSerial :=
  fun _ _ ts _ h => isSerialResult_of_readFlag ts h

end Sys2Proof.Machine
end

section
/-! The decoder and the table decoder have the same graph: each answers an event exactly at that event's word (R64,
R69). -/

namespace Sys2Proof

/-- A check that answers an event only when it passes: it passed, and the event is the one it answers. -/
theorem of_ite_ok_error {c : Prop} [Decidable c] {why : DecodeReject} {i j : Instr}
    (h : (if c then .ok i else .error why : Except DecodeReject Instr) = .ok j) : c ∧ i = j := by
  by_cases hc : c
  · rw [if_pos hc] at h
    exact ⟨hc, Except.ok.inj h⟩
  · rw [if_neg hc] at h
    cases h

theorem encode_of_decode_eq_ok {w : EventWord} {i : Instr} (h : decode w = .ok i) : encode i = w := by
  by_cases hr : rsvField w = 0b00000#5
  case neg =>
    rw [decode, if_pos hr] at h
    cases h
  have hpack : packWord (opcField w) (pField w) = w := packWord_fields w hr
  have hopc : ∀ o : BitVec 2, o = 0b00 ∨ o = 0b01 ∨ o = 0b10 ∨ o = 0b11 := by decide
  rw [decode, if_neg (not_not_intro hr)] at h
  rcases hopc (opcField w) with ho | ho | ho | ho <;> rw [ho] at h hpack
  · cases h
  · obtain ⟨hp, rfl⟩ := of_ite_ok_error (c := pField w = 0) (i := .fine) h
    rwa [hp] at hpack
  · obtain rfl : .poll (pField w) = i := Except.ok.inj h
    exact hpack
  · obtain ⟨hp, rfl⟩ := of_ite_ok_error (c := pField w = 0) (i := .reset) h
    rwa [hp] at hpack

theorem decode_eq_ok_iff {w : EventWord} {i : Instr} : decode w = .ok i ↔ encode i = w :=
  ⟨encode_of_decode_eq_ok, fun h => h ▸ decode_encode i⟩

/-- POLL's mask leaves out the operand bit, which the word then carries (R69). -/
theorem packWord_pField_of_pollMask {w : EventWord} (h : w &&& 0xFE = 0x80) : packWord 0b10 (pField w) = w := by
  revert w; decide

/-- A word that a row matches is the word of the event the row reads from it. -/
theorem OpcodeRow.encode_instrOf {r : OpcodeRow} {w : EventWord} (hr : r ∈ opcodeTable)
    (hw : w &&& r.mask = r.pattern) : encode (r.instrOf w) = w := by
  have hfull : w &&& 0xFF = w := BitVec.and_allOnes
  simp only [opcodeTable, List.mem_cons, List.not_mem_nil, or_false] at hr
  rcases hr with rfl | rfl | rfl
  · exact (hfull.symm.trans hw).symm
  · exact packWord_pField_of_pollMask hw
  · exact (hfull.symm.trans hw).symm

theorem decodeByTable_encode (i : Instr) : decodeByTable (encode i) = some i := by
  cases i with
  | fine => rfl
  | reset => rfl
  | poll p => revert p; decide

theorem decodeByTable_eq_some_iff {w : EventWord} {i : Instr} : decodeByTable w = some i ↔ encode i = w := by
  refine ⟨fun h => ?_, fun h => h ▸ decodeByTable_encode i⟩
  obtain ⟨r, hfind, rfl⟩ := Option.map_eq_some_iff.1 h
  have hmatch : (w &&& r.mask == r.pattern) = true :=
    List.find?_some (p := fun r : OpcodeRow => w &&& r.mask == r.pattern) hfind
  exact OpcodeRow.encode_instrOf (List.mem_of_find?_eq_some hfind) (eq_of_beq hmatch)

theorem decodeTableWord_eight_eq_some_iff {w : Nat} {i : Instr} :
    decodeTableWord 8 w = some i ↔ decode (BitVec.ofNat 8 w) = .ok i := by
  cases hd : decode (BitVec.ofNat 8 w) with
  | error why => simp only [decodeTableWord, hd, ↓reduceIte, reduceCtorEq]
  | ok j => simp only [decodeTableWord, hd, ↓reduceIte, Option.some.injEq, Except.ok.injEq]

/-- Settles O3: both decoders answer `i` exactly at `encode i`. -/
theorem tableDecoderAgreesWithDecode : Obligations.TableDecoderAgreesWithDecode := by
  refine ⟨fun w => Option.ext fun i => ?_, fun nbits w h => if_neg h⟩
  rw [decodeTableWord_eight_eq_some_iff, decode_eq_ok_iff, decodeByTable_eq_some_iff]

end Sys2Proof
end

section
/-! FINE under the invariant counts modulo THRESH, so a pending tick hides every further one (R84), and FINE reads only
SUB_CNT and THRESH (R88). -/

namespace Sys2Proof.Machine

variable {c : Cfg} {r : Regs}

/-! ### Coalesced ticks (R84) -/

/-- Below the threshold, FINE counts modulo THRESH (R80). -/
theorem fineRegs_subCnt_eq_mod (hr : r.subCnt < c.thresh) :
    (fineRegs c r).subCnt = (r.subCnt + 1) % c.thresh := by
  rcases fineRegs_cases c r with ⟨h, e⟩ | ⟨h, e⟩ <;> rw [e]
  · have hlast : r.subCnt + 1 = c.thresh := Nat.le_antisymm hr h
    simp [hlast]
  · simp [Nat.mod_eq_of_lt h]

/-- A tick event leaves the same registers with and without a tick pending (R84). -/
theorem fineRegs_clearTick (h : c.thresh ≤ r.subCnt + 1) : fineRegs c (clearTick r) = fineRegs c r := by
  rw [fineRegs_tick h, fineRegs_tick (r := clearTick r) h]
  rfl

/-- With a tick pending, FINE only counts (R84). -/
theorem fineRegs_of_tickPending (hf : r.tickFlag = 1) (hr : r.subCnt < c.thresh) :
    fineRegs c r = writeSubCnt ((r.subCnt + 1) % c.thresh) r := by
  have hflag : (fineRegs c r).tickFlag = r.tickFlag := by
    rcases fineRegs_tickFlag_eq_or_one c r with e | e
    · exact e
    · exact e.trans hf.symm
  rw [fineRegs_eq_update, hflag, fineRegs_subCnt_eq_mod hr]
  rfl

/-- With a tick pending, any number of FINEs only counts (R84). -/
theorem finesRegs_of_tickPending (n : Nat) (hf : r.tickFlag = 1) (hr : r.subCnt < c.thresh) :
    finesRegs c n r = writeSubCnt ((r.subCnt + n) % c.thresh) r := by
  induction n generalizing r with
  | zero =>
    rw [Nat.add_zero, Nat.mod_eq_of_lt hr]
    rfl
  | succ n ih =>
    have hmod : (r.subCnt + 1) % c.thresh < c.thresh := Nat.mod_lt _ (Nat.zero_lt_of_lt hr)
    calc finesRegs c (n + 1) r
      _ = finesRegs c n (writeSubCnt ((r.subCnt + 1) % c.thresh) r) := by
        rw [finesRegs, fineRegs_of_tickPending hf hr]
      _ = writeSubCnt (((r.subCnt + 1) % c.thresh + n) % c.thresh) r :=
        ih (r := writeSubCnt ((r.subCnt + 1) % c.thresh) r) hf hmod
      _ = writeSubCnt ((r.subCnt + (n + 1)) % c.thresh) r := by
        rw [Nat.mod_add_mod, Nat.add_assoc, Nat.add_comm 1 n]

/-- Settles O7: a tick event writes the flag whatever it was, and with a tick pending FINEs only count, by induction on
their number (`finesRegs_of_tickPending`). -/
theorem coalescedTicksLeaveNoTrace : Obligations.CoalescedTicksLeaveNoTrace := by
  refine ⟨fun s _ htick => ⟨_, exec_fine s, ?flag, ?same⟩, fun s n hs hf => ?fines⟩
  case flag => simp [fineRegs_tick htick]
  case same =>
    rw [← fineRegs_clearTick htick]
    rfl
  case fines =>
    rw [runEvents_fines, finesRegs_of_tickPending n hf hs.regs_inv.subCnt_lt]
    rfl

/-! ### What FINE reads and writes (R88) -/

/-- FINE takes the same path on registers and configurations that agree on SUB_CNT and THRESH: both are tick events, or
both only count (R88). -/
theorem fineRegs_agree {c₁ c₂ : Cfg} {r₁ r₂ : Regs} (hsub : r₁.subCnt = r₂.subCnt) (hthresh : c₁.thresh = c₂.thresh) :
    (fineRegs c₁ r₁).subCnt = (fineRegs c₂ r₂).subCnt ∧
    (((fineRegs c₁ r₁).tickFlag = r₁.tickFlag ∧ (fineRegs c₂ r₂).tickFlag = r₂.tickFlag) ∨
      ((fineRegs c₁ r₁).tickFlag = 1 ∧ (fineRegs c₂ r₂).tickFlag = 1)) := by
  rcases fineRegs_cases c₁ r₁ with ⟨h, e₁⟩ | ⟨h, e₁⟩
  · have e₂ : fineRegs c₂ r₂ = setTick (writeSubCnt 0 r₂) := fineRegs_tick (by rwa [← hsub, ← hthresh])
    rw [e₁, e₂]
    exact ⟨rfl, .inr ⟨rfl, rfl⟩⟩
  · have e₂ : fineRegs c₂ r₂ = writeSubCnt (r₂.subCnt + 1) r₂ := fineRegs_count (by rwa [← hsub, ← hthresh])
    rw [e₁, e₂]
    exact ⟨congrArg (· + 1) hsub, .inl ⟨rfl, rfl⟩⟩

/-- Settles O8: the frame of FINE register by register, and the path it takes by `fineRegs_agree`. -/
theorem fineReadsAndWritesOnlyItsOwn : Obligations.FineReadsAndWritesOnlyItsOwn := by
  refine ⟨fun s t h => ?frame, fun s₁ s₂ t₁ t₂ hsub hthresh h₁ h₂ => ?reads⟩
  case frame =>
    cases h
    exact ⟨fineRegs_stepCnt, fineRegs_fadeIdx, fineRegs_pwmDuty, fineRegs_pwmOe, rfl, rfl, fun _ => rfl⟩
  case reads =>
    cases h₁
    cases h₂
    exact fineRegs_agree hsub hthresh

end Sys2Proof.Machine
end

section
/-! POLL with no tick pending and on the pace path (R101, R103), and what a completed fade step writes (R104 to R109). -/

namespace Sys2Proof.Machine

variable {s t : State} {p : Bit}

/-- Settles O13. -/
theorem idlePollWritesNothing : Obligations.IdlePollWritesNothing := fun p _ hf => exec_poll_of_noTick p hf

/-- Settles O14: the pace path, and a completed fade step, which restarts the count (`exec_poll_fadeStep_stepCnt`). -/
theorem consumedTickPacesOrGoesOn : Obligations.ConsumedTickPacesOrGoesOn := by
  intro p s hf
  refine ⟨fun hp => exec_poll_of_pacing p hf hp, fun hp => ?_⟩
  have hstep : isFadeStep (.poll p) s = true := isFadeStep_poll.2 ⟨hf, hp⟩
  exact ⟨hstep, fun t h => exec_poll_fadeStep_stepCnt h hstep⟩

/-- The sequencer on the pin level: level 0 is an open door (R105, R106). -/
theorem sequencer_doorOpen (n : Nat) (p : Bit) (i : Nat) :
    sequencer n (doorOpen p) i =
      if p = 0 then (if i + 1 < n then i + 1 else i) else (if 0 < i then i - 1 else i) := by
  rcases Bit.zero_or_one p with rfl | rfl <;> rfl

/-- Settles O15: the index is the sequencer's on the pin level, so the entry there is the duty of the fade step. -/
theorem fadeStepMovesIndexAndOutputs : Obligations.FadeStepMovesIndexAndOutputs := by
  intro p s i d hf hp hi hlt hd
  obtain rfl : sequencer s.cfg.n (doorOpen p) s.regs.fadeIdx = i := (sequencer_doorOpen _ _ _).trans hi.symm
  exact exec_poll_of_fadeStep hf hp (lutRead_eq_some.2 ⟨hlt, hd⟩)

theorem outputEnable_eq_one_iff (d : Nat) : outputEnable d = 1 ↔ d > 0 := by
  cases d <;> simp [outputEnable]

theorem outputEnable_eq_zero_iff (d : Nat) : outputEnable d = 0 ↔ d = 0 := by
  cases d <;> simp [outputEnable]

/-- A fade step that completes found an entry at its new index, and that is the duty it commits (R106 to R109). -/
theorem exec_poll_fadeStep_next (hy : isFadeStep (.poll p) s = true) (h : exec (.poll p) s = .next t) :
    ∃ d, lutRead s.cfg (sequencer s.cfg.n (doorOpen p) s.regs.fadeIdx) = some d ∧
      t = withRegs s (fadeStepRegs s.cfg p s.regs d) := by
  obtain ⟨hf, hp⟩ := isFadeStep_poll.1 hy
  rcases exec_poll_next_cases h with ⟨hf', -⟩ | ⟨-, hp', -⟩ | ⟨-, -, hd⟩
  · simp [hf] at hf'
  · omega
  · exact hd

/-- Settles O19: the index, the duty and the gate that the fade step commits are one entry's. -/
theorem fadeStepCommitsDutyAndGate : Obligations.FadeStepCommitsDutyAndGate := by
  intro p s t hy h
  obtain ⟨d, hl, rfl⟩ := exec_poll_fadeStep_next hy h
  exact ⟨(lutRead_eq_some.1 hl).2, outputEnable_eq_one_iff d, outputEnable_eq_zero_iff d⟩

end Sys2Proof.Machine
end

section
/-! A trace is refused at its first INVALID word, with the events before it run (R65, R142(b), D3). -/

namespace Sys2Proof.Machine

variable {s t : State}

/-- The words to come are no part of what makes a state well-formed. -/
theorem State.Inv.takeWord (hs : s.Inv) (ws : List EventWord) : (Machine.takeWord s ws).Inv :=
  ⟨hs.cfg_wf, hs.regs_inv⟩

/-- A trace of events from a well-formed state completes in one, and takes no word (R141): induction on the trace. -/
theorem runEvents_completes (hs : s.Inv) (es : List Instr) :
    ∃ t, runEvents es s = .next t ∧ t.Inv ∧ t.pending = s.pending := by
  induction es generalizing s with
  | nil => exact ⟨s, rfl, hs, rfl⟩
  | cons i es ih =>
    obtain ⟨u, hu, hui⟩ := exec_completes hs i
    obtain ⟨t, ht, hti, htp⟩ := ih hui
    exact ⟨t, (runEvents_cons_next es hu).trans ht, hti, htp.trans (exec_frame hu).2⟩

/-- A run in two parts, where the first completes. -/
theorem core_run_add_next {m : Nat} (n : Nat) (h : core.run m s = .next t) :
    core.run (m + n) s = core.run n t := by
  induction m generalizing s with
  | zero => cases h; rw [Nat.zero_add]
  | succ m ih =>
    rw [Nat.succ_add]
    cases hst : step s with
    | next u => rw [core_run_next _ hst] at h ⊢; exact ih h
    | refused why => rw [core_run_refused _ hst] at h; cases h
    | fault f => exact nomatch f

/-- Under an accepted configuration an INVALID word is refused, whatever the registers (R65, R142(b)). -/
theorem step_of_invalidWord {w : EventWord} {rest : List EventWord} {why : DecodeReject} (hc : s.cfg.WellFormed)
    (hp : s.pending = w :: rest) (hd : decode w = .error why) : step s = .refused (.invalidWord w why) := by
  have hc' : s.cfg.firstFailed = none := hc
  exact step_of_refuse (by simp [delivery, hc', hp, hd])

/-- Settles O46: the events before the INVALID word complete (`run_encodeTrace`), and the step after them refuses, so
that every longer run ends there. -/
theorem traceRefusedAtItsInvalidWord : Obligations.TraceRefusedAtItsInvalidWord := by
  intro s es bad rest why hs hd
  obtain ⟨t, ht, hti, htp⟩ := runEvents_completes (hs.takeWord (bad :: rest)) es
  have hrun := (run_encodeTrace es (bad :: rest) hs).trans ht
  have hstep : step t = .refused (.invalidWord bad why) := step_of_invalidWord hti.cfg_wf htp hd
  refine ⟨⟨t, hrun, hti, htp, hstep⟩, fun n => ?_⟩
  rw [Nat.add_assoc, Nat.add_comm 1 n]
  exact (core_run_add_next (n + 1) hrun).trans (core_run_refused n hstep)

end Sys2Proof.Machine
end

section
/-! The checks of R10 as properties of the configuration, and the refusal of one that fails them (R142(a), D5). -/

namespace Sys2Proof

variable {c : Cfg}

theorem CfgCheck.forall_iff {P : CfgCheck → Prop} :
    (∀ k, P k) ↔ P .wf1 ∧ P .wf2 ∧ P .wf3 ∧ P .wf4 ∧ P .wf5 ∧ P .wf6 ∧ P .wf7 := by
  refine ⟨fun h => ⟨h _, h _, h _, h _, h _, h _, h _⟩, fun ⟨h1, h2, h3, h4, h5, h6, h7⟩ k => ?_⟩
  cases k <;> assumption

/-- A list is nondecreasing exactly when no entry is above the next one (WF6): induction along the definition, the
first pair being index 0 and every other pair one of the rest. -/
theorem lutNondecreasing_iff (l : List Nat) :
    lutNondecreasing l = true ↔ ∀ i a b : Nat, l[i]? = some a → l[i + 1]? = some b → a ≤ b := by
  induction l using lutNondecreasing.induct with
  | case1 => exact iff_of_true rfl fun i a b ha _ => nomatch ha
  | case2 x => exact iff_of_true rfl fun i a b _ hb => nomatch hb
  | case3 x y rest ih =>
    rw [lutNondecreasing, Bool.and_eq_true, decide_eq_true_iff, ih]
    constructor
    · intro ⟨hxy, hrest⟩ i a b ha hb
      cases i with
      | zero => cases ha; cases hb; exact hxy
      | succ i => exact hrest i a b ha hb
    · intro h
      exact ⟨h 0 x y rfl rfl, fun i a b ha hb => h (i + 1) a b ha hb⟩

/-- WF6, entry by entry (R10): with WF4, an index that has a next entry is one below `N - 1`. -/
theorem Cfg.passes_wf6_iff (hlen : c.lut.length = c.n) : c.passes .wf6 = true ↔
    ∀ i a b : Nat, i + 1 < c.n → c.lut[i]? = some a → c.lut[i + 1]? = some b → a ≤ b := by
  refine (lutNondecreasing_iff c.lut).trans ⟨fun h i a b _ => h i a b, fun h i a b ha hb => ?_⟩
  have hi : i + 1 < c.lut.length := (List.getElem?_eq_some_iff.1 hb).1
  exact h i a b (hlen ▸ hi) ha hb

/-- WF7, entry by entry (R10). -/
theorem Cfg.passes_wf7_iff : c.passes .wf7 = true ↔ ∀ i a : Nat, c.lut[i]? = some a → a ≤ 2 ^ c.dutyW - 1 := by
  simp only [Cfg.passes, List.all_eq_true, decide_eq_true_eq, List.mem_iff_getElem?]
  exact ⟨fun h i a ha => h a ⟨i, ha⟩, fun h a ⟨i, ha⟩ => h i a ha⟩

/-- An accepted configuration is one with the seven properties of R10. -/
theorem Cfg.wellFormed_iff : c.WellFormed ↔
    1 ≤ c.thresh ∧ 1 ≤ c.stepMs ∧ 1 ≤ c.n ∧ c.lut.length = c.n ∧ c.lut[0]? = some 0 ∧
    (∀ i a b : Nat, i + 1 < c.n → c.lut[i]? = some a → c.lut[i + 1]? = some b → a ≤ b) ∧
    (∀ i a : Nat, c.lut[i]? = some a → a ≤ 2 ^ c.dutyW - 1) := by
  rw [Machine.wellFormed_iff_passes, CfgCheck.forall_iff, ← Cfg.passes_wf7_iff]
  refine and_congr decide_eq_true_iff <| and_congr decide_eq_true_iff <| and_congr decide_eq_true_iff ?_
  refine (and_congr_left' decide_eq_true_iff).trans <| and_congr_right fun hlen => ?_
  refine and_congr ?_ (and_congr_left' (Cfg.passes_wf6_iff hlen))
  rw [← List.head?_eq_getElem?]
  exact decide_eq_true_iff

namespace Machine

variable {s : State}

/-- The LUT index is the only thing an event refuses (R142(d)). -/
theorem exec_refused_eq_lutIndex {i : Instr} {why : Refusal} (h : exec i s = .refused why) :
    ∃ j, why = .lutIndex j := by
  cases i with
  | fine => cases h
  | reset => cases h
  | poll p =>
    rcases exec_poll_cases p s with ⟨-, e⟩ | ⟨-, -, e⟩ | ⟨-, -, ⟨d, -, e⟩ | ⟨-, e⟩⟩ <;> rw [e] at h <;> cases h
    exact ⟨_, rfl⟩

/-- A configuration is refused by the delivery or not at all (R142(a)). -/
theorem step_eq_refused_illFormedConfig_iff {k : CfgCheck} :
    step s = .refused (.illFormedConfig k) ↔ delivery s = .refuse (.illFormedConfig k) := by
  refine ⟨fun h => ?_, step_of_refuse⟩
  cases hd : delivery s with
  | refuse why => rw [step_of_refuse hd] at h; cases h; rfl
  | silence => rw [step_of_silence hd] at h; cases h
  | event i rest =>
    rw [step_of_event hd] at h
    obtain ⟨j, hj⟩ := exec_refused_eq_lutIndex h
    cases hj

/-- The configuration is the delivery's first check, and it names the first that fails (log 6). -/
theorem delivery_eq_refuse_illFormedConfig_iff {k : CfgCheck} :
    delivery s = .refuse (.illFormedConfig k) ↔ s.cfg.firstFailed = some k := by
  rcases delivery_cases s with ⟨j, hc, e⟩ | ⟨hc, h⟩
  · simp [e, hc]
  · have hc' : s.cfg.firstFailed = none := hc
    rcases h with ⟨-, -, e⟩ | ⟨-, -, e⟩ | ⟨w, rest, -, ⟨why, -, e⟩ | ⟨i, -, ⟨-, e⟩ | ⟨-, -, e⟩⟩⟩ <;> simp [e, hc']

/-- Settles O47: the seven checks one by one, and the delivery's first check as the only source of the refusal. -/
theorem illFormedConfigurationRefused : Obligations.IllFormedConfigurationRefused :=
  ⟨fun _ => Cfg.wellFormed_iff,
    fun _ _ => step_eq_refused_illFormedConfig_iff.trans delivery_eq_refuse_illFormedConfig_iff⟩

end Machine
end Sys2Proof
end

section
/-! RESET and another event at one instant (R146, D11). -/

namespace Sys2Proof.Machine

variable {s t : State}

theorem instantOutcomes_reset_fine (p : Bit) (s : State) :
    instantOutcomes ⟨1, 1, 0, p⟩ s = [runEvents [.fine, .reset] s, runEvents [.reset, .fine] s] := rfl

theorem instantOutcomes_reset_poll (p : Bit) (s : State) :
    instantOutcomes ⟨1, 0, 1, p⟩ s = [runEvents [.poll p, .reset] s, runEvents [.reset, .poll p] s] := rfl

/-- Nothing of an event is left after a RESET: it writes all six registers (R29, R170). -/
theorem runEvents_then_reset {i : Instr} (h : exec i s = .next t) :
    runEvents [i, .reset] s = .next (withRegs s Regs.reset) := by
  obtain ⟨hcfg, hpending⟩ := exec_frame h
  rw [runEvents_pair h (exec_reset t), withRegs, withRegs, hcfg, hpending]

/-- A POLL right after a RESET is idle: no tick is pending (R101, R171). -/
theorem exec_poll_after_reset (p : Bit) (s : State) :
    exec (.poll p) (withRegs s Regs.reset) = .next (withRegs s Regs.reset) :=
  exec_poll_of_noTick p rfl

/-- Settles O55: an event before the RESET is lost, a FINE after it runs from the reset registers, and a POLL after it
is idle. -/
theorem resetWithAnotherEventAtOneInstant : Obligations.ResetWithAnotherEventAtOneInstant := by
  intro p s hs
  obtain ⟨t, ht, -⟩ := exec_completes hs (.poll p)
  constructor
  · rw [instantOutcomes_reset_fine, runEvents_then_reset (exec_fine s), runEvents_pair (exec_reset s) (exec_fine _)]
    rfl
  · rw [instantOutcomes_reset_poll, runEvents_then_reset ht,
      runEvents_pair (exec_reset s) (exec_poll_after_reset p s)]
    rfl

end Sys2Proof.Machine
end

section
/-! What RESET clears and what it keeps (R173, R174, R179), and a RESET word as the start of a run (R170, R177). -/

namespace Sys2Proof.Machine

variable {s : State}

/-- Settles O36: RESET writes the reset registers and nothing else. -/
theorem resetClearsIndexAndStepCounter : Obligations.ResetClearsIndexAndStepCounter :=
  fun s => ⟨withRegs s Regs.reset, exec_reset s, rfl, rfl, rfl, fun _ => rfl⟩

/-- A RESET word completes from any registers (R170); that it may is the model's reading (log 5). -/
theorem step_of_resetWord {rest : List EventWord} (hc : s.cfg.WellFormed) (hp : s.pending = 0xC0#8 :: rest) :
    step s = .next (withRegs (takeWord s rest) Regs.reset) :=
  calc step s
    _ = exec .reset (takeWord s rest) := stepRunsTheDecodedEvent s _ rest .reset hc (.inl rfl) hp (decode_encode .reset)
    _ = .next (withRegs (takeWord s rest) Regs.reset) := exec_reset _

/-- Settles O37: the step leaves the reset registers, which meet R31 to R35 under the accepted configuration (R177). -/
theorem resetWordRestartsFromAnything : Obligations.ResetWordRestartsFromAnything := by
  intro s rest hc hp
  have hinv : (withRegs (takeWord s rest) Regs.reset).Inv := ⟨hc, .reset hc⟩
  exact ⟨_, step_of_resetWord hc hp, rfl, rfl, rfl, rfl, hinv⟩

end Sys2Proof.Machine
end

section
/-! Runs as a whole: the invariants R31 to R35 along every event, step and trace (R141), and the states reached from
RESET. -/

namespace Sys2Proof.Machine

variable {c : Cfg} {s t : State} {es : List Instr} {h : History}

@[simp] theorem fadeStepRegs_fadeIdx (c : Cfg) (p : Bit) (r : Regs) (d : Nat) :
    (fadeStepRegs c p r d).fadeIdx = sequencer c.n (doorOpen p) r.fadeIdx := rfl

/-! ### Every event and every step -/

/-- Every event keeps R31 to R35. -/
theorem exec_inv {i : Instr} (hs : s.Inv) (hx : exec i s = .next t) : t.Inv := by
  obtain ⟨u, hu, hui⟩ := exec_completes hs i
  cases hu.symm.trans hx
  exact hui

/-- Every step keeps R31 to R35: it refuses, leaves the state, or runs one event. -/
theorem step_inv (hs : s.Inv) (hx : step s = .next t) : t.Inv := by
  cases hd : delivery s with
  | refuse why => rw [step_of_refuse hd] at hx; cases hx
  | silence => rw [step_of_silence hd] at hx; cases hx; exact hs
  | event i rest => rw [step_of_event hd] at hx; exact exec_inv (hs.takeWord rest) hx

/-- Settles O40, by the step lemma for events (`exec_inv`) and the one for steps. -/
theorem everyStepKeepsTheInvariants : Obligations.EveryStepKeepsTheInvariants :=
  ⟨fun _ _ hs hx => step_inv hs hx, fun _ _ _ hs hx => exec_inv hs hx⟩

/-! ### Every trace -/

/-- A trace that completes and has a first event: that event completes, and the rest runs from the state it left. -/
theorem runEvents_cons_eq_next {i : Instr} (hx : runEvents (i :: es) s = .next t) :
    ∃ u, exec i s = .next u ∧ runEvents es u = .next t := by
  cases e : exec i s with
  | next u => exact ⟨u, rfl, (runEvents_cons_next es e).symm.trans hx⟩
  | fault f => exact nomatch f
  | refused why => simp [runEvents, e] at hx

theorem historyOf_cons_next {i : Instr} (es : List Instr) (h : History) (e : exec i s = .next t) :
    historyOf (i :: es) s h = historyOf es t (h.after i s) := by
  simp only [historyOf, e]

/-- No trace changes the configuration or the words to come (R42). -/
theorem runEvents_frame (hx : runEvents es s = .next t) : t.cfg = s.cfg ∧ t.pending = s.pending := by
  induction es generalizing s with
  | nil => cases hx; exact ⟨rfl, rfl⟩
  | cons i es ih =>
    obtain ⟨u, hu, hrest⟩ := runEvents_cons_eq_next hx
    obtain ⟨hcfg, hpending⟩ := exec_frame hu
    obtain ⟨hcfg', hpending'⟩ := ih hrest
    exact ⟨hcfg'.trans hcfg, hpending'.trans hpending⟩

theorem runEvents_inv (hs : s.Inv) (hx : runEvents es s = .next t) : t.Inv := by
  obtain ⟨u, hu, hui, -⟩ := runEvents_completes hs es
  cases hu.symm.trans hx
  exact hui

/-- Settles O42: traces complete by `runEvents_completes`, and a step at a valid word is its event. -/
theorem wellFormedRunsNeverStop : Obligations.WellFormedRunsNeverStop := by
  refine ⟨fun es s hs => ?trace, fun s w rest i hs hp hd => ?word⟩
  case trace =>
    obtain ⟨t, ht, hti, htp⟩ := runEvents_completes hs es
    exact ⟨t, ht, hti, (runEvents_frame ht).1, htp⟩
  case word =>
    obtain ⟨t, ht, -⟩ := exec_completes (hs.takeWord rest) i
    exact ⟨t, (stepRunsTheDecodedEvent s w rest i hs.cfg_wf (.inr hs.regs_inv) hp hd).trans ht, (exec_frame ht).2⟩

/-! ### The states reached from RESET -/

theorem State.Inv.resetWith (hc : c.WellFormed) (ws : List EventWord) : (State.resetWith c ws).Inv :=
  ⟨hc, .reset hc⟩

theorem ReachedBy.inv (hr : ReachedBy c es s h) : s.Inv := runEvents_inv (.resetWith hr.cfg_wf []) hr.run

theorem ReachedBy.cfg_eq (hr : ReachedBy c es s h) : s.cfg = c := (runEvents_frame hr.run).1

theorem ReachedBy.regs_inv (hr : ReachedBy c es s h) : s.regs.Inv c := hr.cfg_eq ▸ hr.inv.regs_inv

/-- Settles O39. -/
theorem resetMeetsTheInvariants : Obligations.ResetMeetsTheInvariants :=
  ⟨fun _ ws hc => .resetWith hc ws, .resetWith (by decide) []⟩

/-- Settles O38. -/
theorem resetStateIsAllZero : Obligations.ResetStateIsAllZero :=
  ⟨fun _ _ => ⟨resetWith_regs _ _, resetWith_cfg _ _, resetWith_pending _ _⟩, rfl, rfl, rfl⟩

/-- Settles O35. -/
theorem resetZeroesAllSixRegisters : Obligations.ResetZeroesAllSixRegisters := fun s => exec_reset s

/-- R35's second equation, read from the gate. -/
theorem Regs.Inv.pwmOe_eq_one_iff {r : Regs} (hr : r.Inv c) : r.pwmOe = 1 ↔ 0 < r.pwmDuty := by
  rw [hr.gated]
  exact outputEnable_eq_one_iff _

theorem Regs.Inv.pwmOe_eq_zero_iff {r : Regs} (hr : r.Inv c) : r.pwmOe = 0 ↔ r.pwmDuty = 0 := by
  rw [hr.gated]
  exact outputEnable_eq_zero_iff _

/-- The duty is an entry of the table, so it fits in DUTY_W bits (WF7, R35). -/
theorem Regs.Inv.pwmDuty_le {r : Regs} (hc : c.WellFormed) (hr : r.Inv c) : r.pwmDuty ≤ 2 ^ c.dutyW - 1 :=
  Cfg.passes_wf7_iff.1 (wellFormed_iff_passes.1 hc .wf7) _ _ hr.duty_eq

/-- Settles O41: every reached state meets R35 under an accepted configuration. -/
theorem outputPortsAlwaysGated : Obligations.OutputPortsAlwaysGated :=
  fun _ _ _ _ hr => ⟨hr.regs_inv.pwmOe_eq_one_iff, hr.regs_inv.pwmDuty_le hr.cfg_wf⟩

end Sys2Proof.Machine
end

section
/-! The laws of the Tick Generator and the Fade Controller over traces (R85, R115, R117 to R119). Each law is a relation
between the registers and the history that every FINE and every POLL keeps; one induction over the trace
(`KeptByEvents.run`) then carries it to every run. -/

namespace Sys2Proof.Machine

variable {c : Cfg} {s t : State} {es : List Instr} {h : History} {p : Bit} {r : Regs}

/-! ### What the history records of each event -/

@[simp] theorem after_fine_fines : (h.after .fine s).fines = h.fines + 1 := rfl
@[simp] theorem after_fine_ticks : (h.after .fine s).ticks = h.ticks + (isTickEvent .fine s).toNat := rfl
@[simp] theorem after_fine_coalesced :
    (h.after .fine s).coalesced = h.coalesced + (isCoalesced .fine s).toNat := rfl
@[simp] theorem after_fine_consumed : (h.after .fine s).consumed = h.consumed := rfl
@[simp] theorem after_fine_levels : (h.after .fine s).levels = h.levels := rfl

@[simp] theorem after_poll_fines : (h.after (.poll p) s).fines = h.fines := rfl
@[simp] theorem after_poll_ticks : (h.after (.poll p) s).ticks = h.ticks := rfl
@[simp] theorem after_poll_coalesced : (h.after (.poll p) s).coalesced = h.coalesced := rfl
@[simp] theorem after_poll_consumed :
    (h.after (.poll p) s).consumed = h.consumed + (isConsumedTick (.poll p) s).toNat := rfl
@[simp] theorem after_poll_levels :
    (h.after (.poll p) s).levels = h.levels ++ if isFadeStep (.poll p) s then [p] else [] := rfl

theorem after_poll_steps : (h.after (.poll p) s).steps = h.steps + (isFadeStep (.poll p) s).toNat := by
  cases e : isFadeStep (.poll p) s <;> simp [History.steps, e]

/-! ### The induction over a trace -/

/-- Every FINE and every POLL under `c` keeps the relation `P` between the registers and the history. -/
structure KeptByEvents (c : Cfg) (P : Regs → History → Prop) : Prop where
  fine : ∀ (s : State) (h : History), s.cfg = c → P s.regs h → P (fineRegs c s.regs) (h.after .fine s)
  poll : ∀ (p : Bit) (s t : State) (h : History), s.cfg = c → exec (.poll p) s = .next t → P s.regs h →
    P t.regs (h.after (.poll p) s)

/-- What every FINE and POLL keeps, a trace keeps, if a RESET in it establishes it again. -/
theorem KeptByEvents.run {P : Regs → History → Prop} (hk : KeptByEvents c P)
    (hreset : .reset ∈ es → P Regs.reset History.empty) (hc : s.cfg = c) (hx : runEvents es s = .next t)
    (hP : P s.regs h) : P t.regs (historyOf es s h) := by
  induction es generalizing s h with
  | nil => cases hx; exact hP
  | cons i es ih =>
    obtain ⟨u, hu, hrest⟩ := runEvents_cons_eq_next hx
    rw [historyOf_cons_next es h hu]
    refine ih (fun hm => hreset (.tail i hm)) ((exec_frame hu).1.trans hc) hrest ?_
    cases i with
    | fine => cases hu; exact hc ▸ hk.fine s h hc hP
    | poll p => exact hk.poll p s u h hc hu hP
    | reset => cases hu; exact hreset (.head es)

/-- What RESET establishes and every FINE and POLL keeps holds of every state reached from RESET. -/
theorem KeptByEvents.reached {P : Regs → History → Prop} (hk : KeptByEvents c P)
    (hreset : P Regs.reset History.empty) (hr : ReachedBy c es s h) : P s.regs h :=
  hr.history ▸ hk.run (fun _ => hreset) rfl hr.run hreset

/-! ### A counter modulo `m`, and the number of times it wraps -/

section Wrap

variable {m x : Nat}

theorem succ_mod_div_of_wrap (hm : 0 < m) (hx : m ≤ x % m + 1) : (x + 1) % m = 0 ∧ (x + 1) / m = x / m + 1 := by
  have hlt : x % m < m := Nat.mod_lt x hm
  have hdiv : x % m + m * (x / m) = x := Nat.mod_add_div x m
  exact ((Nat.div_mod_unique hm).2 ⟨by rw [Nat.mul_add]; omega, hm⟩).symm

theorem succ_mod_div_of_count (hx : x % m + 1 < m) : (x + 1) % m = x % m + 1 ∧ (x + 1) / m = x / m := by
  have hdiv : x % m + m * (x / m) = x := Nat.mod_add_div x m
  exact ((Nat.div_mod_unique (Nat.zero_lt_of_lt hx)).2 ⟨by omega, hx⟩).symm

/-- The counter is about to wrap exactly when the next number is a multiple. -/
theorem dvd_succ_iff_wrap (hm : 0 < m) : m ∣ x + 1 ↔ m ≤ x % m + 1 := by
  rw [Nat.dvd_iff_mod_eq_zero]
  rcases Nat.lt_or_ge (x % m + 1) m with hx | hx
  · rw [(succ_mod_div_of_count hx).1]
    omega
  · exact iff_of_true (succ_mod_div_of_wrap hm hx).1 hx

end Wrap

/-! ### The period law (R85) -/

/-- SUB_CNT counts FINEs on from `n₀`, modulo THRESH, and every wrap is a tick event. -/
structure CountsFines (c : Cfg) (n₀ : Nat) (r : Regs) (h : History) : Prop where
  subCnt_eq : r.subCnt = (n₀ + h.fines) % c.thresh
  ticks_eq : h.ticks = (n₀ + h.fines) / c.thresh

theorem CountsFines.start (hn : r.subCnt < c.thresh) : CountsFines c r.subCnt r History.empty :=
  ⟨(Nat.mod_eq_of_lt hn).symm, (Nat.div_eq_of_lt hn).symm⟩

/-- FINE counts or wraps, and POLL does neither. -/
theorem countsFines_kept (hc : 0 < c.thresh) (n₀ : Nat) : KeptByEvents c (CountsFines c n₀) where
  fine := by
    rintro s h rfl ⟨hsub, hticks⟩
    rcases fineRegs_cases s.cfg s.regs with ⟨hw, e⟩ | ⟨hw, e⟩
    · have htick : isTickEvent .fine s = true := isTickEvent_fine.2 hw
      obtain ⟨hmod, hdiv⟩ := succ_mod_div_of_wrap hc (hsub ▸ hw)
      exact ⟨by simp [e, ← Nat.add_assoc, hmod], by simp [htick, hticks, ← Nat.add_assoc, hdiv]⟩
    · have htick : isTickEvent .fine s = false := by simpa [isTickEvent] using hw
      obtain ⟨hmod, hdiv⟩ := succ_mod_div_of_count (hsub ▸ hw)
      exact ⟨by simp [e, hsub, ← Nat.add_assoc, hmod], by simp [htick, hticks, ← Nat.add_assoc, hdiv]⟩
  poll := fun p s t h _ hx ⟨hsub, hticks⟩ => ⟨(exec_poll_subCnt hx).trans hsub, hticks⟩

theorem ReachedBy.countsFines (hr : ReachedBy c es s h) : CountsFines c 0 s.regs h :=
  (countsFines_kept hr.cfg_wf.thresh_pos 0).reached (.start (r := Regs.reset) hr.cfg_wf.thresh_pos) hr

theorem ReachedBy.subCnt_eq (hr : ReachedBy c es s h) : s.regs.subCnt = h.fines % c.thresh := by
  simpa using hr.countsFines.subCnt_eq

theorem ReachedBy.ticks_eq (hr : ReachedBy c es s h) : h.ticks = h.fines / c.thresh := by
  simpa using hr.countsFines.ticks_eq

/-- Settles O9: SUB_CNT is the count of FINEs modulo THRESH (`CountsFines`), and FINE is a tick event where it wraps. -/
theorem tickEventsComeEveryThreshFines : Obligations.TickEventsComeEveryThreshFines := by
  intro c es s h hr
  have hsub := hr.subCnt_eq
  have hcfg := hr.cfg_eq
  have hwrap : c.thresh ∣ h.fines + 1 ↔ c.thresh ≤ s.regs.subCnt + 1 := by
    rw [hsub]
    exact dvd_succ_iff_wrap hr.cfg_wf.thresh_pos
  refine ⟨hsub, by rw [isTickEvent_fine, hcfg, hwrap], _, exec_fine s, ?count, fun hd => ?flag⟩
  case count =>
    rw [withRegs_regs, hcfg, fineRegs_subCnt_eq_mod hr.regs_inv.subCnt_lt, hsub, Nat.mod_add_mod]
  case flag =>
    rw [withRegs_regs, hcfg, fineRegs_tick (hwrap.1 hd), setTick_tickFlag]

/-! ### Where every tick went (R84, R102) -/

/-- A tick event is consumed, coalesced or still pending. -/
def TicksAccounted (r : Regs) (h : History) : Prop := h.ticks = h.consumed + h.coalesced + r.tickFlag.toNat

theorem toNat_tickPending (r : Regs) : (tickPending r).toNat = r.tickFlag.toNat := by
  rcases Bit.zero_or_one r.tickFlag with hf | hf <;> simp [tickPending, hf]

/-- A tick event finds the flag clear and leaves one tick pending, or finds one pending and is coalesced; a POLL consumes
the tick that is pending, if there is one. -/
theorem ticksAccounted_kept (c : Cfg) : KeptByEvents c TicksAccounted where
  fine := by
    rintro s h rfl hacc
    unfold TicksAccounted at hacc ⊢
    rcases fineRegs_cases s.cfg s.regs with ⟨hw, e⟩ | ⟨hw, e⟩
    · have htick : isTickEvent .fine s = true := isTickEvent_fine.2 hw
      have hlost : (isCoalesced .fine s).toNat = s.regs.tickFlag.toNat := by
        rw [isCoalesced, htick, Bool.true_and, toNat_tickPending]
      have hflag : (fineRegs s.cfg s.regs).tickFlag.toNat = 1 := by rw [e]; rfl
      rw [after_fine_ticks, after_fine_coalesced, after_fine_consumed, htick, hlost, hflag, Bool.toNat_true]
      omega
    · have htick : isTickEvent .fine s = false := by simpa [isTickEvent] using hw
      simp [e, hacc, htick, isCoalesced]
  poll := by
    intro p s t h _ hx hacc
    unfold TicksAccounted at hacc ⊢
    have hflag : t.regs.tickFlag.toNat = 0 := congrArg BitVec.toNat (exec_poll_tickFlag hx)
    have hconsumed : (isConsumedTick (.poll p) s).toNat = s.regs.tickFlag.toNat := toNat_tickPending s.regs
    rw [after_poll_ticks, after_poll_coalesced, after_poll_consumed, hconsumed, hflag]
    omega

/-- Settles O26, by the account that every event keeps (`TicksAccounted`). -/
theorem everyTickConsumedLostOrPending : Obligations.EveryTickConsumedLostOrPending :=
  fun c _ _ _ hr => (ticksAccounted_kept c).reached rfl hr

/-- Settles O56: with no tick pending, a tick that is not consumed was coalesced (`everyTickConsumedLostOrPending`). -/
theorem fewerConsumedExactlyWhenCoalescedIfNonePending :
    Obligations.FewerConsumedExactlyWhenCoalescedIfNonePending := by
  intro c es s h hr hf
  have hacc := everyTickConsumedLostOrPending c es s h hr
  have hnone : s.regs.tickFlag.toNat = 0 := congrArg BitVec.toNat hf
  omega

/-- Refutes O27: under THRESH = 1, one FINE from RESET leaves a tick pending that is neither consumed nor coalesced. -/
theorem not_fewerConsumedExactlyWhenCoalesced : ¬ Obligations.FewerConsumedExactlyWhenCoalesced := by
  intro hall
  have hr : ReachedBy ⟨1, 1, 1, [0], 8, 1⟩ [.fine] ⟨⟨1, 0, 0, 0, 0, 0⟩, ⟨1, 1, 1, [0], 8, 1⟩, []⟩ ⟨1, 1, 0, 0, []⟩ :=
    ⟨by decide, rfl, rfl⟩
  exact absurd ((hall _ _ _ _ hr).1 (by decide)) (by decide)

/-! ### The cadence law (R115) and the index the sampled levels give (R117, R118) -/

/-- Where the sequencer takes index `i` for the levels that the fade steps sample (R106). -/
def movedIndex (n i : Nat) (levels : List Bit) : Nat := levels.foldl (fun j p => sequencer n (doorOpen p) j) i

@[simp] theorem movedIndex_nil (n i : Nat) : movedIndex n i [] = i := rfl

@[simp] theorem movedIndex_cons (n i : Nat) (p : Bit) (ps : List Bit) :
    movedIndex n i (p :: ps) = movedIndex n (sequencer n (doorOpen p) i) ps := rfl

theorem movedIndex_concat (n i : Nat) (ps : List Bit) (p : Bit) :
    movedIndex n i (ps ++ [p]) = sequencer n (doorOpen p) (movedIndex n i ps) := List.foldl_append

/-- STEP_CNT counts consumed ticks on from `k₀`, modulo STEP_MS, every wrap is a completed fade step, and FADE_IDX is
where the sampled levels take it from `i₀`. -/
structure CountsTicks (c : Cfg) (k₀ i₀ : Nat) (r : Regs) (h : History) : Prop where
  stepCnt_eq : r.stepCnt = (k₀ + h.consumed) % c.stepMs
  steps_eq : h.steps = (k₀ + h.consumed) / c.stepMs
  fadeIdx_eq : r.fadeIdx = movedIndex c.n i₀ h.levels

theorem CountsTicks.start (hk : r.stepCnt < c.stepMs) : CountsTicks c r.stepCnt r.fadeIdx r History.empty :=
  ⟨(Nat.mod_eq_of_lt hk).symm, (Nat.div_eq_of_lt hk).symm, rfl⟩

/-- POLL is idle, counts or wraps, and FINE does none of these. -/
theorem countsTicks_kept (hc : 0 < c.stepMs) (k₀ i₀ : Nat) : KeptByEvents c (CountsTicks c k₀ i₀) where
  fine := fun s h _ ⟨hstep, hsteps, hidx⟩ => ⟨fineRegs_stepCnt.trans hstep, hsteps, fineRegs_fadeIdx.trans hidx⟩
  poll := by
    rintro p s t h rfl hx ⟨hstep, hsteps, hidx⟩
    rcases exec_poll_next_cases hx with ⟨hf, e⟩ | ⟨hf, hw, e⟩ | ⟨hf, hw, d, -, e⟩
    case inl =>
      have hidle : isConsumedTick (.poll p) s = false := by simpa [isConsumedTick] using hf
      exact ⟨by simp [e, hidle, hstep], by simp [after_poll_steps, isFadeStep, hidle, hsteps],
        by simp [e, isFadeStep, hidle, hidx]⟩
    case inr.inl =>
      have hconsumed : isConsumedTick (.poll p) s = true := isConsumedTick_poll.2 hf
      have hpace : isFadeStep (.poll p) s = false := by simpa [isFadeStep, hconsumed] using hw
      obtain ⟨hmod, hdiv⟩ := succ_mod_div_of_count (hstep ▸ hw)
      exact ⟨by simp [e, hconsumed, hstep, ← Nat.add_assoc, hmod],
        by simp [after_poll_steps, hconsumed, hpace, hsteps, ← Nat.add_assoc, hdiv], by simp [e, hpace, hidx]⟩
    case inr.inr =>
      have hconsumed : isConsumedTick (.poll p) s = true := isConsumedTick_poll.2 hf
      have hfade : isFadeStep (.poll p) s = true := isFadeStep_poll.2 ⟨hf, hw⟩
      obtain ⟨hmod, hdiv⟩ := succ_mod_div_of_wrap hc (hstep ▸ hw)
      exact ⟨by simp [e, hconsumed, ← Nat.add_assoc, hmod],
        by simp [after_poll_steps, hconsumed, hfade, hsteps, ← Nat.add_assoc, hdiv],
        by simp [e, hfade, hidx, movedIndex_concat]⟩

theorem ReachedBy.countsTicks (hr : ReachedBy c es s h) : CountsTicks c 0 0 s.regs h :=
  (countsTicks_kept hr.cfg_wf.stepMs_pos 0 0).reached (.start (r := Regs.reset) hr.cfg_wf.stepMs_pos) hr

theorem ReachedBy.stepCnt_eq (hr : ReachedBy c es s h) : s.regs.stepCnt = h.consumed % c.stepMs := by
  simpa using hr.countsTicks.stepCnt_eq

theorem ReachedBy.steps_eq (hr : ReachedBy c es s h) : h.steps = h.consumed / c.stepMs := by
  simpa using hr.countsTicks.steps_eq

/-- Settles O21: STEP_CNT is the count of consumed ticks modulo STEP_MS (`CountsTicks`), and a consumed tick is a
completed fade step where it wraps. -/
theorem fadeStepsComeEveryStepMsTicks : Obligations.FadeStepsComeEveryStepMsTicks := by
  intro c es s h p hr
  refine ⟨hr.stepCnt_eq, hr.steps_eq, fun hf => ?_⟩
  rw [isFadeStep_poll, hr.cfg_eq, hr.stepCnt_eq, dvd_succ_iff_wrap hr.cfg_wf.stepMs_pos]
  exact and_iff_right hf

/-- Settles O25: the two cadences, and every consumed tick occurred (`everyTickConsumedLostOrPending`). -/
theorem fadeNeverFasterThanItsTicks : Obligations.FadeNeverFasterThanItsTicks := by
  intro c es s h hr
  have hacc := everyTickConsumedLostOrPending c es s h hr
  have hle : h.consumed ≤ h.ticks := by omega
  exact ⟨hr.steps_eq, hle, hr.ticks_eq, hr.steps_eq ▸ Nat.div_le_div_right (hr.ticks_eq ▸ hle)⟩

/-! ### Only the sampled levels matter (R118) -/

/-- Under the invariant FADE_IDX fixes the other two registers of the fade state (R35). -/
theorem Regs.Inv.fadeState_eq {q : Regs} (hr : r.Inv c) (hq : q.Inv c) (hidx : r.fadeIdx = q.fadeIdx) :
    fadeState r = fadeState q := by
  have hduty : r.pwmDuty = q.pwmDuty := Option.some.inj (hr.duty_eq.symm.trans (hidx ▸ hq.duty_eq))
  have hoe : r.pwmOe = q.pwmOe := by rw [hr.gated, hq.gated, hduty]
  rw [fadeState, fadeState, hidx, hduty, hoe]

/-- A POLL that is no completed fade step has the same outcome for either level (R101, R103, R105). -/
theorem exec_poll_eq_of_not_fadeStep (p q : Bit) (hn : isFadeStep (.poll p) s = false) :
    exec (.poll p) s = exec (.poll q) s := by
  rcases exec_poll_cases p s with ⟨hf, e⟩ | ⟨hf, hw, e⟩ | ⟨hf, hw, -⟩
  · rw [e, exec_poll_of_noTick q hf]
  · rw [e, exec_poll_of_pacing q hf hw]
  · rw [isFadeStep_poll.2 ⟨hf, hw⟩] at hn
    cases hn

/-- Settles O24: the sampled levels give FADE_IDX (`CountsTicks`), and FADE_IDX gives the outputs. -/
theorem onlySampledLevelsMatter : Obligations.OnlySampledLevelsMatter := by
  refine ⟨fun p q s hn => exec_poll_eq_of_not_fadeStep p q hn, fun c es₁ es₂ s₁ s₂ h₁ h₂ hr₁ hr₂ hl => ?_⟩
  refine hr₁.regs_inv.fadeState_eq hr₂.regs_inv ?_
  rw [hr₁.countsTicks.fadeIdx_eq, hr₂.countsTicks.fadeIdx_eq, hl]

/-! ### A held door (R117) -/

theorem sequencer_doorOpen_zero (n i : Nat) : sequencer n (doorOpen 0) i = if i + 1 < n then i + 1 else i := rfl

theorem sequencer_doorOpen_one (n i : Nat) : sequencer n (doorOpen 1) i = i - 1 := sequencer_closed n i

/-- With the door held open the index climbs by one a step, up to the ceiling. -/
theorem movedIndex_held_open {n i : Nat} (hi : i < n) (k : Nat) :
    movedIndex n i (List.replicate k 0) = min (n - 1) (i + k) := by
  induction k generalizing i with
  | zero => rw [List.replicate_zero, movedIndex_nil]; omega
  | succ k ih =>
    rw [List.replicate_succ, movedIndex_cons, ih (sequencer_lt _ hi), sequencer_doorOpen_zero]
    split <;> omega

/-- With the door held closed the index falls by one a step, down to 0. -/
theorem movedIndex_held_closed (n i k : Nat) : movedIndex n i (List.replicate k 1) = i - k := by
  induction k generalizing i with
  | zero => rfl
  | succ k ih =>
    rw [List.replicate_succ, movedIndex_cons, sequencer_doorOpen_one, ih, Nat.sub_sub, Nat.add_comm]

/-- The law of a RESET-free trace from a well-formed state: its ticks are counted on from that state. -/
theorem State.Inv.countsTicks_run (hs : s.Inv) (hno : .reset ∉ es) (hx : runEvents es s = .next t) :
    CountsTicks s.cfg s.regs.stepCnt s.regs.fadeIdx t.regs (historyOf es s History.empty) :=
  (countsTicks_kept hs.cfg_wf.stepMs_pos _ _).run (fun hm => absurd hm hno) rfl hx (.start hs.regs_inv.stepCnt_lt)

/-- Settles O23: FADE_IDX is where the sampled levels take it (`CountsTicks`), and those are all one level. -/
theorem heldDoorConvergesToItsEndpoint : Obligations.HeldDoorConvergesToItsEndpoint := by
  intro es s t p k hs hno hx hl
  rw [(hs.countsTicks_run hno hx).fadeIdx_eq, hl]
  rcases Bit.zero_or_one p with rfl | rfl
  · exact movedIndex_held_open hs.regs_inv.fadeIdx_lt k
  · exact movedIndex_held_closed s.cfg.n s.regs.fadeIdx k

/-! ### The time of a full fade (R190) -/

/-- The index is at most one further for every sampled level. -/
theorem movedIndex_le (n i : Nat) (ps : List Bit) : movedIndex n i ps ≤ i + ps.length := by
  induction ps generalizing i with
  | nil => exact Nat.le_refl i
  | cons p ps ih =>
    have hseq : sequencer n (doorOpen p) i ≤ i + 1 := by
      unfold sequencer
      split <;> split <;> omega
    calc movedIndex n (sequencer n (doorOpen p) i) ps
      _ ≤ sequencer n (doorOpen p) i + ps.length := ih _
      _ ≤ i + (p :: ps).length := by rw [List.length_cons]; omega

/-- Settles O30: FADE_IDX is at most the number of fade steps, and those are bounded by the FINEs (R119). -/
theorem fullFadeTakesItsTime : Obligations.FullFadeTakesItsTime := by
  intro c es s h hr
  have hidx : s.regs.fadeIdx ≤ h.steps := by
    rw [hr.countsTicks.fadeIdx_eq]
    exact Nat.le_trans (movedIndex_le c.n 0 h.levels) (Nat.le_of_eq (Nat.zero_add _))
  obtain ⟨-, -, -, hsteps⟩ := fadeNeverFasterThanItsTicks c es s h hr
  have hfines : s.regs.fadeIdx * c.stepMs * c.thresh ≤ h.fines :=
    (Nat.le_div_iff_mul_le hr.cfg_wf.thresh_pos).1
      ((Nat.le_div_iff_mul_le hr.cfg_wf.stepMs_pos).1 (Nat.le_trans hidx hsteps))
  have htime : s.regs.fadeIdx * c.fadeStepPeriod ≤ h.fines * c.tFine := by
    calc s.regs.fadeIdx * (c.stepMs * (c.thresh * c.tFine))
      _ = s.regs.fadeIdx * c.stepMs * c.thresh * c.tFine := by simp only [Nat.mul_assoc]
      _ ≤ h.fines * c.tFine := Nat.mul_le_mul_right _ hfines
  exact ⟨htime, fun htop => by rwa [htop] at htime⟩

end Sys2Proof.Machine
end

section
/-! The pseudo-instructions `tick` and `step` (R68), a trace without a FINE (R181), and a trace without its idle POLLs
(R158). -/

namespace Sys2Proof

variable {es : List Instr} {i : Instr}

/-! ### A list of events, several times over -/

theorem repeated_one (es : List Instr) : repeated 1 es = es := List.append_nil es

theorem repeated_succ (k : Nat) (es : List Instr) : repeated (k + 1) es = es ++ repeated k es := rfl

theorem repeated_add (j k : Nat) (es : List Instr) : repeated (j + k) es = repeated j es ++ repeated k es := by
  rw [repeated, ← List.replicate_append_replicate, List.flatten_append]
  rfl

theorem repeated_repeated (k m : Nat) (es : List Instr) : repeated k (repeated m es) = repeated (k * m) es := by
  induction k with
  | zero => rw [Nat.zero_mul]; rfl
  | succ k ih => rw [repeated_succ, ih, ← repeated_add, Nat.succ_mul, Nat.add_comm]

theorem mem_of_mem_repeated {k : Nat} (h : i ∈ repeated k es) : i ∈ es := by
  obtain ⟨l, hl, hi⟩ := List.mem_flatten.1 h
  rwa [List.eq_of_mem_replicate hl] at hi

/-- `step` is made of `tick` and POLL lines, so it holds no other events (R68). -/
theorem eq_fine_or_poll_of_mem_repeated_tick_poll {c : Cfg} {p : Bit} {k : Nat}
    (h : i ∈ repeated k (tickEvents c ++ [.poll p])) : i = .fine ∨ i = .poll p := by
  rcases List.mem_append.1 (mem_of_mem_repeated h) with hi | hi
  · exact .inl (List.eq_of_mem_replicate hi)
  · exact .inr (List.mem_singleton.1 hi)

theorem expand_steps (c : Cfg) (p : Bit) (k : Nat) :
    (Pseudo.steps p k).expand c = repeated (k * c.stepMs) (tickEvents c ++ [.poll p]) :=
  repeated_repeated k c.stepMs _

namespace Machine

variable {c : Cfg} {r : Regs} {s t : State} {p : Bit}

/-! ### `tick` (R68) -/

/-- FINEs up to the threshold are counted until the last one, which is a tick event (R80): induction on their number. -/
theorem finesRegs_to_threshold (n : Nat) (hn : r.subCnt + (n + 1) = c.thresh) :
    finesRegs c (n + 1) r = setTick (writeSubCnt 0 r) := by
  induction n generalizing r with
  | zero => exact fineRegs_tick (Nat.le_of_eq hn.symm)
  | succ n ih =>
    rw [finesRegs, fineRegs_count (by omega), ih (by rw [writeSubCnt_subCnt]; omega)]
    rfl

theorem writeSubCnt_self (r : Regs) : writeSubCnt r.subCnt r = r := rfl

theorem runEvents_tick (hc : 0 < s.cfg.thresh) (h0 : s.regs.subCnt = 0) :
    runEvents (tickEvents s.cfg) s = .next (withRegs s (setTick s.regs)) := by
  obtain ⟨n, hn⟩ := Nat.exists_eq_succ_of_ne_zero (Nat.ne_of_gt hc)
  have hself : writeSubCnt 0 s.regs = s.regs := h0 ▸ writeSubCnt_self s.regs
  rw [tickEvents, runEvents_fines, hn, finesRegs_to_threshold n (by omega), hself]

/-- FINEs are counted in F and consume nothing. -/
theorem historyOf_fines (n : Nat) (s : State) (h : History) :
    (historyOf (List.replicate n .fine) s h).fines = h.fines + n ∧
    (historyOf (List.replicate n .fine) s h).consumed = h.consumed := by
  induction n generalizing s h with
  | zero => exact ⟨rfl, rfl⟩
  | succ n ih =>
    rw [List.replicate_succ, historyOf_cons_next _ h (exec_fine s)]
    obtain ⟨hfines, hconsumed⟩ := ih (withRegs s (fineRegs s.cfg s.regs)) (h.after .fine s)
    exact ⟨by rw [hfines, after_fine_fines]; omega, hconsumed⟩

/-- Settles O33: THRESH FINEs from SUB_CNT = 0 end at the threshold, and that makes one tick event (`CountsFines`). -/
theorem tickPseudoMakesOneTick : Obligations.TickPseudoMakesOneTick := by
  intro s hc h0
  have hrun := runEvents_tick hc.thresh_pos h0
  refine ⟨hrun, ?_⟩
  have hno : Instr.reset ∉ tickEvents s.cfg := fun hm => nomatch List.eq_of_mem_replicate hm
  have hcount : CountsFines s.cfg s.regs.subCnt _ (historyOf (tickEvents s.cfg) s History.empty) :=
    (countsFines_kept hc.thresh_pos _).run (fun hm => absurd hm hno) rfl hrun (.start (h0 ▸ hc.thresh_pos))
  have hfines : (historyOf (tickEvents s.cfg) s History.empty).fines = 0 + s.cfg.thresh := (historyOf_fines _ s _).1
  calc (historyOf (tickEvents s.cfg) s History.empty).ticks
    _ = s.cfg.thresh / s.cfg.thresh := by rw [hcount.ticks_eq, hfines, h0, Nat.zero_add, Nat.zero_add]
    _ = 1 := Nat.div_self hc.thresh_pos

/-! ### `step` (R68) -/

/-- `tick` and a POLL after it consume one tick, whatever was pending. -/
theorem runEvents_tick_poll (hs : s.Inv) (h0 : s.regs.subCnt = 0) (p : Bit) :
    ∃ t, runEvents (tickEvents s.cfg ++ [.poll p]) s = .next t ∧ t.regs.subCnt = 0 ∧ t.regs.tickFlag = 0 ∧
      ∀ h, (historyOf (tickEvents s.cfg ++ [.poll p]) s h).consumed = h.consumed + 1 := by
  have hrun := runEvents_tick hs.cfg_wf.thresh_pos h0
  obtain ⟨t, ht, -⟩ := exec_completes (runEvents_inv hs hrun) (.poll p)
  refine ⟨t, ?run, (exec_poll_subCnt ht).trans h0, exec_poll_tickFlag ht, fun h => ?consumed⟩
  case run => rw [runEvents_append_next _ hrun, runEvents_cons_next _ ht, runEvents_nil]
  case consumed =>
    have htick : isConsumedTick (.poll p) (withRegs s (setTick s.regs)) = true := isConsumedTick_poll.2 rfl
    rw [historyOf_append_next _ h hrun, historyOf_cons_next _ _ ht, historyOf, after_poll_consumed, htick]
    exact congrArg (· + 1) (historyOf_fines s.cfg.thresh s h).2

/-- `n` times over they consume `n` ticks and leave none pending: induction on `n`, the last time apart. -/
theorem runEvents_repeated_tick_poll (hs : s.Inv) (h0 : s.regs.subCnt = 0) (p : Bit) (n : Nat) :
    ∃ t, runEvents (repeated n (tickEvents s.cfg ++ [.poll p])) s = .next t ∧ t.regs.subCnt = 0 ∧
      (0 < n → t.regs.tickFlag = 0) ∧
      ∀ h, (historyOf (repeated n (tickEvents s.cfg ++ [.poll p])) s h).consumed = h.consumed + n := by
  induction n with
  | zero => exact ⟨s, rfl, h0, fun hn => absurd hn (Nat.lt_irrefl 0), fun h => rfl⟩
  | succ n ih =>
    obtain ⟨u, hu, hu0, -, huc⟩ := ih
    obtain ⟨t, ht, ht0, htf, htc⟩ := runEvents_tick_poll (runEvents_inv hs hu) hu0 p
    rw [(runEvents_frame hu).1] at ht htc
    rw [repeated_add, repeated_one]
    refine ⟨t, (runEvents_append_next _ hu).trans ht, ht0, fun _ => htf, fun h => ?_⟩
    rw [historyOf_append_next _ h hu, htc, huc, Nat.add_assoc]

/-- A sampled level is the operand of a POLL of the trace (R105). -/
theorem mem_levels_historyOf {es : List Instr} {h : History} {q : Bit} (hq : q ∈ (historyOf es s h).levels) :
    q ∈ h.levels ∨ .poll q ∈ es := by
  induction es generalizing s h with
  | nil => exact .inl hq
  | cons i es ih =>
    cases e : exec i s with
    | fault f => exact nomatch f
    | refused why => simp only [historyOf, e] at hq; exact .inl hq
    | next u =>
      rw [historyOf_cons_next es h e] at hq
      rcases ih hq with hm | hm
      case inr => exact .inr (.tail i hm)
      cases i with
      | fine => exact .inl hm
      | reset => cases hm
      | poll p =>
        rw [after_poll_levels, List.mem_append] at hm
        rcases hm with hm | hm
        · exact .inl hm
        · split at hm
          · cases List.mem_singleton.1 hm
            exact .inr (.head es)
          · cases hm

/-- Settles O34: the expansion is `K * STEP_MS` times `tick` and POLL (`runEvents_repeated_tick_poll`), so it consumes
that many ticks, and those are K completed fade steps (`CountsTicks`). -/
theorem stepPseudoMakesItsFadeSteps : Obligations.StepPseudoMakesItsFadeSteps := by
  intro s p k hs h0 hk
  refine ⟨(repeated_one _).symm, ?_⟩
  rw [expand_steps]
  have hpos : 0 < s.cfg.stepMs := hs.cfg_wf.stepMs_pos
  obtain ⟨t, ht, ht0, htf, htc⟩ := runEvents_repeated_tick_poll hs h0 p (k * s.cfg.stepMs)
  have hconsumed := (htc History.empty).trans (Nat.zero_add _)
  have hno : Instr.reset ∉ repeated (k * s.cfg.stepMs) (tickEvents s.cfg ++ [.poll p]) := fun hm => by
    rcases eq_fine_or_poll_of_mem_repeated_tick_poll hm with e | e <;> cases e
  obtain ⟨hstep, hsteps, -⟩ := hs.countsTicks_run hno ht
  rw [hconsumed, Nat.add_mul_mod_self_right, Nat.mod_eq_of_lt hs.regs_inv.stepCnt_lt] at hstep
  rw [hconsumed, Nat.add_mul_div_right _ _ hpos, Nat.div_eq_of_lt hs.regs_inv.stepCnt_lt, Nat.zero_add] at hsteps
  refine ⟨List.eq_replicate_iff.2 ⟨hsteps, fun q hq => ?level⟩, hconsumed, t, ht, ht0, hstep,
    htf (Nat.mul_pos hk hpos)⟩
  case level =>
    rcases mem_levels_historyOf hq with hm | hm
    · cases hm
    · rcases eq_fine_or_poll_of_mem_repeated_tick_poll hm with e | e <;> cases e
      rfl

/-! ### Before the first FINE (R181) -/

/-- Without a FINE the reset registers stay: no POLL finds a tick, and a RESET writes them again. -/
theorem runEvents_of_no_fine {es : List Instr} (hr : s.regs = Regs.reset) (hno : .fine ∉ es) :
    runEvents es s = .next s := by
  induction es with
  | nil => rfl
  | cons i es ih =>
    have hi : exec i s = .next s := by
      cases i with
      | fine => exact absurd (.head es) hno
      | poll p => exact exec_poll_of_noTick p (hr ▸ rfl)
      | reset => rw [exec_reset, ← hr, withRegs_self]
    exact (runEvents_cons_next es hi).trans (ih fun hm => hno (.tail i hm))

/-- Settles O31: the registers are the reset ones (`runEvents_of_no_fine`), where no tick is pending. -/
theorem withoutFineEveryPollIsIdle : Obligations.WithoutFineEveryPollIsIdle := by
  intro c es s h hr hno
  have hrun : runEvents es (State.resetWith c []) = .next (State.resetWith c []) := runEvents_of_no_fine rfl hno
  cases hr.run.symm.trans hrun
  exact ⟨rfl, fun p => ⟨isIdlePoll_poll.2 rfl, exec_poll_of_noTick p rfl⟩⟩

/-! ### Sleeping until a tick (R158) -/

section Sleep

variable {i : Instr} {es : List Instr}

theorem exec_of_idlePoll (hi : isIdlePoll i s = true) : exec i s = .next s := by
  cases i with
  | fine => cases hi
  | reset => cases hi
  | poll p => exact exec_poll_of_noTick p (isIdlePoll_poll.1 hi)

theorem withoutIdlePolls_cons_idle (es : List Instr) (hi : isIdlePoll i s = true) :
    withoutIdlePolls (i :: es) s = withoutIdlePolls es s := by
  simp only [withoutIdlePolls, hi, if_true]

theorem withoutIdlePolls_cons_next (es : List Instr) (hi : isIdlePoll i s = false) (e : exec i s = .next t) :
    withoutIdlePolls (i :: es) s = i :: withoutIdlePolls es t := by
  simp [withoutIdlePolls, hi, e]

theorem withoutIdlePolls_cons_refused {why : Refusal} (es : List Instr) (hi : isIdlePoll i s = false)
    (e : exec i s = .refused why) : withoutIdlePolls (i :: es) s = i :: es := by
  simp [withoutIdlePolls, hi, e]

end Sleep

/-- Settles O32, by induction on the trace: an idle POLL leaves the state, so that leaving it out leaves the rest of the
run, and an event that stays is no idle POLL the second time either. -/
theorem sleepingVariantEndsTheSame : Obligations.SleepingVariantEndsTheSame := by
  intro es
  induction es with
  | nil => exact fun s => ⟨rfl, rfl⟩
  | cons i es ih =>
    intro s
    cases hi : isIdlePoll i s with
    | true =>
      rw [withoutIdlePolls_cons_idle es hi, runEvents_cons_next es (exec_of_idlePoll hi)]
      exact ih s
    | false =>
      cases e : exec i s with
      | fault f => exact nomatch f
      | refused why =>
        have hsame := withoutIdlePolls_cons_refused es hi e
        rw [hsame]
        exact ⟨rfl, hsame⟩
      | next t =>
        obtain ⟨hrun, hidem⟩ := ih t
        rw [withoutIdlePolls_cons_next es hi e, runEvents_cons_next _ e, runEvents_cons_next _ e,
          withoutIdlePolls_cons_next _ hi e, hidem]
        exact ⟨hrun, rfl⟩

end Machine
end Sys2Proof
end

section
/-! Traces of words decoded and encoded (R60, R64, R65), and the text form read back (R67). -/

namespace Sys2Proof

variable {w : EventWord} {ws : List EventWord} {i : Instr} {es : List Instr} {why : DecodeReject} {c : Cfg}

/-! ### Words (R61, R62, R64) -/

/-- Settles O1: each word is packed from its fields, and the decoder evaluates it. -/
theorem wordsDecodeAsTheSpecWritesThem : Obligations.WordsDecodeAsTheSpecWritesThem :=
  ⟨rfl, rfl, rfl, rfl, rfl, rfl, rfl, rfl, rfl, rfl⟩

/-- The words of the events, written out (R61, R62). -/
theorem encode_eq_iff : encode i = w ↔
    (w = 0x40#8 ∧ i = .fine) ∨ (w = 0x80#8 ∧ i = .poll 0) ∨ (w = 0x81#8 ∧ i = .poll 1) ∨ (w = 0xC0#8 ∧ i = .reset) := by
  constructor
  · rintro rfl
    cases i with
    | fine => exact .inl ⟨rfl, rfl⟩
    | reset => exact .inr (.inr (.inr ⟨rfl, rfl⟩))
    | poll p =>
      rcases Bit.zero_or_one p with rfl | rfl
      · exact .inr (.inl ⟨rfl, rfl⟩)
      · exact .inr (.inr (.inl ⟨rfl, rfl⟩))
  · rintro (⟨rfl, rfl⟩ | ⟨rfl, rfl⟩ | ⟨rfl, rfl⟩ | ⟨rfl, rfl⟩) <;> rfl

/-- Settles O2: a word decodes to the event it is the word of (`decode_eq_ok_iff`). -/
theorem exactlyFourWordsAreValid : Obligations.ExactlyFourWordsAreValid :=
  fun _ _ => decode_eq_ok_iff.trans encode_eq_iff

/-! ### Traces of words (R65) -/

theorem decodeTrace_cons_invalid (ws : List EventWord) (hd : decode w = .error why) :
    decodeTrace (w :: ws) = .error (0, why) := by
  simp only [decodeTrace, hd]

theorem decodeTrace_cons_ok (hd : decode w = .ok i) (hws : decodeTrace ws = .ok es) :
    decodeTrace (w :: ws) = .ok (i :: es) := by
  simp only [decodeTrace, hd, hws]

theorem decodeTrace_cons_error {k : Nat} (hd : decode w = .ok i) (hws : decodeTrace ws = .error (k, why)) :
    decodeTrace (w :: ws) = .error (k + 1, why) := by
  simp only [decodeTrace, hd, hws]

theorem encodeTrace_cons (i : Instr) (es : List Instr) : encodeTrace (i :: es) = encode i :: encodeTrace es := rfl

theorem decodeTrace_encodeTrace (es : List Instr) : decodeTrace (encodeTrace es) = .ok es := by
  induction es with
  | nil => rfl
  | cons i es ih => exact decodeTrace_cons_ok (decode_encode i) ih

theorem decodeTrace_at_invalid (good : List Instr) (rest : List EventWord) (hd : decode w = .error why) :
    decodeTrace (encodeTrace good ++ w :: rest) = .error (good.length, why) := by
  induction good with
  | nil => exact decodeTrace_cons_invalid rest hd
  | cons i good ih => exact decodeTrace_cons_error (decode_encode i) ih

/-- What a decoding says of the byte string: it is the encoding of the events read, or of those before the first
INVALID word (R65). -/
def DecodedFrom (ws : List EventWord) : Except (Nat × DecodeReject) (List Instr) → Prop
  | .ok es => encodeTrace es = ws
  | .error (k, why) => ∃ (good : List Instr) (bad : EventWord) (rest : List EventWord),
      ws = encodeTrace good ++ bad :: rest ∧ good.length = k ∧ decode bad = .error why

/-- Every decoding says so: induction on the words, as the decoder reads them. -/
theorem decodedFrom_decodeTrace (ws : List EventWord) : DecodedFrom ws (decodeTrace ws) := by
  induction ws with
  | nil => rfl
  | cons w ws ih =>
    cases hd : decode w with
    | error why =>
      rw [decodeTrace_cons_invalid ws hd]
      exact ⟨[], w, ws, rfl, rfl, hd⟩
    | ok i =>
      obtain rfl : encode i = w := encode_of_decode_eq_ok hd
      cases hws : decodeTrace ws with
      | ok es =>
        rw [hws] at ih
        rw [decodeTrace_cons_ok hd hws]
        exact congrArg (encode i :: ·) ih
      | error e =>
        rw [hws] at ih
        obtain ⟨good, bad, rest, hsplit, hlen, hbad⟩ := ih
        rw [decodeTrace_cons_error hd hws]
        exact ⟨i :: good, bad, rest, congrArg (encode i :: ·) hsplit, congrArg (· + 1) hlen, hbad⟩

/-- Settles O4: the decoder reads an encoded trace back (`decodeTrace_encodeTrace`) up to an INVALID word
(`decodeTrace_at_invalid`), and whatever it answers, the words are such a trace (`decodedFrom_decodeTrace`). -/
theorem traceDecodeInvertsEncode : Obligations.TraceDecodeInvertsEncode := by
  refine ⟨decodeTrace_encodeTrace, fun ws es h => ?ok, fun ws k why => ⟨fun h => ?error, ?invalid⟩⟩
  case ok =>
    have hfrom := decodedFrom_decodeTrace ws
    rwa [h] at hfrom
  case error =>
    have hfrom := decodedFrom_decodeTrace ws
    rwa [h] at hfrom
  case invalid =>
    rintro ⟨good, bad, rest, rfl, rfl, hbad⟩
    exact decodeTrace_at_invalid good rest hbad

/-! ### Lines of text (R67) -/

theorem assembleLine_spelling (c : Cfg) (i : Instr) : assembleLine c (spelling i) = some [i] := by
  cases i with
  | fine => rfl
  | reset => rfl
  | poll p => rcases Bit.zero_or_one p with rfl | rfl <;> rfl

theorem linesFrom_transcript_cons (i : Instr) (es : List Instr) :
    linesFrom [] (transcript (i :: es)) = spelling i :: linesFrom [] (transcript es) :=
  linesFrom_append [] (spelling i) (transcript es) (lineFeed_not_mem_spelling i)

theorem assembleLines_cons {l : List Char} {ls : List (List Char)} {rest : List Instr}
    (hl : assembleLine c l = some es) (hls : assembleLines c ls = some rest) :
    assembleLines c (l :: ls) = some (es ++ rest) := by
  simp only [assembleLines, hl, hls, Option.bind_some, Option.map_some]

theorem assemble_transcript (c : Cfg) (es : List Instr) : assemble c (transcript es) = some es := by
  induction es with
  | nil => rfl
  | cons i es ih =>
    rw [assemble, linesFrom_transcript_cons]
    exact assembleLines_cons (assembleLine_spelling c i) ih

/-- The words of a line are those before its first `;` (R67). -/
theorem lineWords_comment (line comment : List Char) : lineWords (line ++ ';' :: comment) = lineWords line := by
  have hcut : (line ++ ';' :: comment).takeWhile (· != ';') = line.takeWhile (· != ';') := by
    induction line with
    | nil => rfl
    | cons ch line ih => rw [List.cons_append, List.takeWhile_cons, List.takeWhile_cons, ih]
  rw [lineWords, hcut, lineWords]

theorem lineWords_blanks {line : List Char} (hb : ∀ ch ∈ line, isBlank ch = true) : lineWords line = [] :=
  wordsFrom_blanks _ fun ch hch => hb ch ((List.takeWhile_prefix _).subset hch)

/-- Settles O5: a transcript is read back line by line (`assemble_transcript`), and a comment or a blank line adds no
word. -/
theorem transcriptAssemblesBack : Obligations.TranscriptAssemblesBack := by
  refine ⟨assemble_transcript, fun c => ⟨rfl, rfl⟩, fun c line comment => ?comment, fun c line hb => ?blank⟩
  case comment => rw [assembleLine, lineWords_comment, assembleLine]
  case blank => rw [assembleLine, lineWords_blanks hb]; rfl

end Sys2Proof
end

section
/-! FINE: its full effect (R80), when TICK_FLAG rises (R86), and when a second FINE changes nothing (R47, log 16). -/

namespace Sys2Proof.Machine

variable {s t : State}

/-- Settles O6, by the two cases of FINE. -/
theorem fineCountsOrTicks : Obligations.FineCountsOrTicks := by
  refine ⟨rfl, fun s => ?_⟩
  rw [exec_fine]
  rcases fineRegs_cases s.cfg s.regs with ⟨h, e⟩ | ⟨h, e⟩ <;> rw [e]
  · rw [if_pos h]; rfl
  · rw [if_neg (Nat.not_le.2 h)]; rfl

/-- From TICK_FLAG = 0, FINE sets the flag exactly when it is a tick event (R82, R83). -/
theorem fineRegs_tickFlag_eq_one_iff (hf : s.regs.tickFlag = 0) :
    (fineRegs s.cfg s.regs).tickFlag = 1 ↔ isTickEvent .fine s = true := by
  rw [isTickEvent_fine]
  rcases fineRegs_cases s.cfg s.regs with ⟨h, e⟩ | ⟨h, e⟩
  · exact iff_of_true (by rw [e, setTick_tickFlag]) h
  · exact iff_of_false (by rw [e, writeSubCnt_tickFlag, hf]; decide) (Nat.not_le.2 h)

/-- Settles O10: FINE only sets the flag, and only at a tick event; POLL and RESET leave it 0. -/
theorem tickFlagRisesOnlyAtFreshTick : Obligations.TickFlagRisesOnlyAtFreshTick := by
  intro i s t hx
  have not_rising (ht : t.regs.tickFlag = 0) : ¬ (s.regs.tickFlag = 0 ∧ t.regs.tickFlag = 1) := by simp [ht]
  cases i with
  | fine =>
    cases hx
    refine ⟨?rise, fun h1 h0 => ?fall⟩
    case rise =>
      rw [and_comm]
      exact and_congr_left fun hf => fineRegs_tickFlag_eq_one_iff hf
    case fall =>
      rcases fineRegs_tickFlag_eq_or_one s.cfg s.regs with e | e
      · exact absurd (h0.symm.trans (e.trans h1)) (by decide)
      · exact absurd (h0.symm.trans e) (by decide)
  | poll p => exact ⟨iff_of_false (not_rising (exec_poll_tickFlag hx)) (by simp [isTickEvent]), fun _ _ => nofun⟩
  | reset => cases hx; exact ⟨iff_of_false (not_rising rfl) (by simp [isTickEvent]), fun _ _ => nofun⟩

/-- FINE leaves registers as they are only if its count modulo THRESH is the old one, so THRESH = 1. -/
theorem thresh_eq_one_of_fineRegs_eq_self {c : Cfg} {r : Regs} (hr : r.subCnt < c.thresh) (h : fineRegs c r = r) :
    c.thresh = 1 := by
  have hsub : (fineRegs c r).subCnt = r.subCnt := congrArg Regs.subCnt h
  rcases fineRegs_cases c r with ⟨hw, e⟩ | ⟨-, e⟩ <;> rw [e] at hsub
  · rw [setTick_subCnt, writeSubCnt_subCnt] at hsub
    omega
  · rw [writeSubCnt_subCnt] at hsub
    omega

/-- With THRESH = 1 every FINE is a tick event, and leaves what one tick event leaves (R80's corner case). -/
theorem fineRegs_fineRegs_of_thresh_eq_one {c : Cfg} (r : Regs) (hc : c.thresh = 1) :
    fineRegs c (fineRegs c r) = fineRegs c r := by
  have htick (q : Regs) : fineRegs c q = setTick (writeSubCnt 0 q) := fineRegs_tick (by omega)
  rw [htick (fineRegs c r), htick r]
  rfl

/-- Settles O11. -/
theorem fineIdempotentExactlyAtThreshOne : Obligations.FineIdempotentExactlyAtThreshOne := by
  intro s t hs hx
  cases hx
  refine ⟨fun h => ?_, fun hc => ?_⟩
  · have hsame : fineRegs s.cfg (fineRegs s.cfg s.regs) = fineRegs s.cfg s.regs :=
      congrArg State.regs (Host.Outcome.next.inj h)
    exact thresh_eq_one_of_fineRegs_eq_self hs.fine.regs_inv.subCnt_lt hsame
  · rw [exec_fine, withRegs_regs, withRegs_cfg, withRegs_withRegs, fineRegs_fineRegs_of_thresh_eq_one _ hc]

/-- Refutes O12: under THRESH = 1, a FINE from TICK_FLAG = 1 and SUB_CNT = 0 changes nothing (vector T7). -/
theorem not_fineNeverIdempotent : ¬ Obligations.FineNeverIdempotent := by
  intro hall
  have hs : State.Inv ⟨⟨1, 0, 0, 0, 0, 0⟩, ⟨1, 1, 1, [0], 8, 1⟩, []⟩ := ⟨by decide, launchOk_iff.1 (by decide)⟩
  exact hall _ _ hs rfl rfl

end Sys2Proof.Machine
end

section
/-! POLL from well-formed states: its path table (R113), its one refusal (R41, R142(d)), what it does not read (R22), how
FADE_IDX moves (R116) and the outputs with it (R120, WF6). -/

namespace Sys2Proof.Machine

variable {c : Cfg} {r q : Regs} {s t : State} {p : Bit}

/-! ### The one refusal -/

theorem lutRead_isSome_iff (hc : c.WellFormed) {i : Nat} : (lutRead c i).isSome = true ↔ i < c.n := by
  refine ⟨fun h => ?_, fun hi => ?_⟩
  · obtain ⟨d, hd⟩ := Option.isSome_iff_exists.1 h
    exact (lutRead_eq_some.1 hd).1
  · obtain ⟨d, hd⟩ := exists_lutRead_eq_some hc hi
    exact Option.isSome_iff_exists.2 ⟨d, hd⟩

theorem lutRead_eq_none_iff (hc : c.WellFormed) {i : Nat} : lutRead c i = none ↔ c.n ≤ i := by
  rw [← Option.not_isSome_iff_eq_none, lutRead_isSome_iff hc, Nat.not_lt]

/-- POLL is refused exactly when its fade step finds no entry (R41, R142(d)). -/
theorem exec_poll_refused_iff {why : Refusal} : exec (.poll p) s = .refused why ↔
    isFadeStep (.poll p) s = true ∧ lutRead s.cfg (sequencer s.cfg.n (doorOpen p) s.regs.fadeIdx) = none ∧
    why = .lutIndex (sequencer s.cfg.n (doorOpen p) s.regs.fadeIdx) := by
  rw [isFadeStep_poll]
  rcases exec_poll_cases p s with ⟨hf, e⟩ | ⟨hf, hw, e⟩ | ⟨hf, hw, ⟨d, hl, e⟩ | ⟨hl, e⟩⟩ <;> rw [e]
  · simp [hf]
  · simp [Nat.not_le.2 hw]
  · simp [hl]
  · simp [hf, hw, hl, eq_comm]

/-- Settles O17: LutRead has an entry for every index of an accepted table, so the refusal of POLL
(`exec_poll_refused_iff`) is an index outside, and a well-formed state has none. -/
theorem pollRefusedExactlyOutsideTheLut : Obligations.PollRefusedExactlyOutsideTheLut := by
  refine ⟨fun c i hc => ⟨rfl, lutRead_isSome_iff hc⟩, fun p s why hc => ?iff, fun p s why hs h => ?never⟩
  case iff =>
    rw [exec_poll_refused_iff, lutRead_eq_none_iff hc]
    rfl
  case never =>
    obtain ⟨t, ht, -⟩ := exec_completes hs (.poll p)
    rw [ht] at h
    cases h

/-- Settles O20: POLL carries SUB_CNT along, whether it completes (`exec_poll_writeSubCnt`) or not, and RESET clears
it. -/
theorem onlyFineReadsSubCnt : Obligations.OnlyFineReadsSubCnt := by
  refine fun v s t => ⟨fun p h => exec_poll_writeSubCnt h v, fun p why h => ?refused, rfl⟩
  case refused =>
    have hstep := exec_poll_refused_iff.1 h
    exact exec_poll_refused_iff (s := withRegs s (writeSubCnt v s.regs)).2 hstep

/-! ### The path table (R113) -/

/-- Settles O16: idle, pace, and the four ways of the sequencer, each with the entry at its new index
(`fadeStepMovesIndexAndOutputs`); at the ceiling and at the floor that is the entry already shown (R35). -/
theorem pollPathTable : Obligations.PollPathTable := by
  intro p s ⟨hc, hr⟩
  have entry {i : Nat} (hi : i < s.cfg.n) : ∃ d, s.cfg.lut[i]? = some d := by
    obtain ⟨d, hd⟩ := exists_lutRead_eq_some hc hi
    exact ⟨d, (lutRead_eq_some.1 hd).2⟩
  have hidx := hr.fadeIdx_lt
  refine ⟨exec_poll_of_noTick p, exec_poll_of_pacing p, ?up, ?ceiling, ?down, ?floor⟩
  case up =>
    rintro hf hw rfl hi
    have hlt : s.regs.fadeIdx + 1 < s.cfg.n := by omega
    obtain ⟨d, hd⟩ := entry hlt
    exact ⟨d, hd, fadeStepMovesIndexAndOutputs 0 s _ d hf (Nat.le_of_eq hw.symm) (by simp [hlt]) hlt hd⟩
  case ceiling =>
    rintro hf hw rfl hi
    have hge : ¬ s.regs.fadeIdx + 1 < s.cfg.n := by omega
    rw [fadeStepMovesIndexAndOutputs 0 s _ _ hf (Nat.le_of_eq hw.symm) (by simp [hge]) hidx hr.duty_eq, ← hr.gated]
  case down =>
    rintro hf hw rfl hi
    have hlt : s.regs.fadeIdx - 1 < s.cfg.n := by omega
    obtain ⟨d, hd⟩ := entry hlt
    exact ⟨d, hd, fadeStepMovesIndexAndOutputs 1 s _ d hf (Nat.le_of_eq hw.symm) (if_pos hi).symm hlt hd⟩
  case floor =>
    rintro hf hw rfl hi
    exact fadeStepMovesIndexAndOutputs 1 s 0 0 hf (Nat.le_of_eq hw.symm) (by simp [hi]) hc.n_pos hc.lut_zero

/-! ### FADE_IDX (R116) -/

/-- An event that is neither RESET nor a completed fade step leaves FADE_IDX, PWM_DUTY and PWM_OE (R29, R103). -/
theorem exec_fadeState {i : Instr} (hi : i ≠ .reset) (hn : isFadeStep i s = false) (hx : exec i s = .next t) :
    fadeState t.regs = fadeState s.regs := by
  cases i with
  | fine => cases hx; simp [fadeState]
  | poll p => exact exec_poll_fadeState hx hn
  | reset => exact absurd rfl hi

theorem exec_poll_fadeStep_fadeIdx (hy : isFadeStep (.poll p) s = true) (hx : exec (.poll p) s = .next t) :
    t.regs.fadeIdx = sequencer s.cfg.n (doorOpen p) s.regs.fadeIdx := by
  obtain ⟨d, -, rfl⟩ := exec_poll_fadeStep_next hy hx
  rfl

/-- Settles O22: a completed fade step writes what the sequencer says, and no other event but RESET writes FADE_IDX. -/
theorem indexMovesOnceOnlyInFadeSteps : Obligations.IndexMovesOnceOnlyInFadeSteps := by
  intro i s t hs hx
  have hlt := hs.regs_inv.fadeIdx_lt
  refine ⟨fun hi hn => congrArg Prod.fst (exec_fadeState hi hn hx), ?_⟩
  rintro p rfl hy
  have hidx := exec_poll_fadeStep_fadeIdx hy hx
  refine ⟨?up, ?down⟩
  case up =>
    rintro rfl
    rw [sequencer_doorOpen_zero] at hidx
    split at hidx <;> omega
  case down =>
    rintro rfl
    rw [sequencer_doorOpen_one] at hidx
    omega

/-! ### The outputs (R120, WF6) -/

/-- Settles O28: only a fade step or RESET writes the outputs, and PWM_OE gates the entry at FADE_IDX before and after
(R35). -/
theorem outputsChangeOnlyAtFadeSteps : Obligations.OutputsChangeOnlyAtFadeSteps := by
  intro i s t hs hx
  have hr : s.regs.Inv s.cfg := hs.regs_inv
  have hq : t.regs.Inv s.cfg := (exec_frame hx).1 ▸ (exec_inv hs hx).regs_inv
  refine ⟨fun hi hn => ?same, fun _ => ⟨_, _, hr.duty_eq, hq.duty_eq, ?up, ?down⟩⟩
  case same =>
    have hfade := exec_fadeState hi hn hx
    simp only [fadeState, Prod.mk.injEq] at hfade
    obtain ⟨-, hduty, hoe⟩ := hfade
    rw [outputsOf, outputsOf, hduty, hoe]
  case up => exact and_congr hr.pwmOe_eq_zero_iff hq.pwmOe_eq_one_iff
  case down => exact and_congr hr.pwmOe_eq_one_iff hq.pwmOe_eq_zero_iff

/-- The duty of the same index is the same (R35), and that of the next one no smaller (WF6). -/
theorem Regs.Inv.pwmDuty_le_pwmDuty (hc : c.WellFormed) (hr : r.Inv c) (hq : q.Inv c)
    (hidx : q.fadeIdx = r.fadeIdx ∨ q.fadeIdx = r.fadeIdx + 1) : r.pwmDuty ≤ q.pwmDuty := by
  have hduty := hq.duty_eq
  rcases hidx with e | e
  · rw [e] at hduty
    exact Nat.le_of_eq (Option.some.inj (hr.duty_eq.symm.trans hduty))
  · rw [e] at hduty
    exact (Cfg.passes_wf6_iff hc.lut_length).1 (wellFormed_iff_passes.1 hc .wf6) _ _ _ (e ▸ hq.fadeIdx_lt)
      hr.duty_eq hduty

/-- Settles O29: the index stays or moves by one in the door's direction (`indexMovesOnceOnlyInFadeSteps`), and the
duty with it. -/
theorem openDoorNeverDims : Obligations.OpenDoorNeverDims := by
  intro s t hs
  have after {p : Bit} (hx : exec (.poll p) s = .next t) : t.regs.Inv s.cfg :=
    (exec_frame hx).1 ▸ (exec_inv hs hx).regs_inv
  refine ⟨fun hx => hs.regs_inv.pwmDuty_le_pwmDuty hs.cfg_wf (after hx) ?opened,
    fun hx => (after hx).pwmDuty_le_pwmDuty hs.cfg_wf hs.regs_inv ?closed⟩
  case opened =>
    obtain ⟨hkeep, hmove⟩ := indexMovesOnceOnlyInFadeSteps _ s t hs hx
    cases hy : isFadeStep (.poll 0) s with
    | false => exact .inl (hkeep nofun hy)
    | true =>
      rcases (hmove 0 rfl hy).1 rfl with hup | ⟨htop, -⟩
      · exact .inr hup
      · exact .inl htop
  case closed =>
    obtain ⟨hkeep, hmove⟩ := indexMovesOnceOnlyInFadeSteps _ s t hs hx
    cases hy : isFadeStep (.poll 1) s with
    | false => exact .inl (hkeep nofun hy).symm
    | true =>
      rcases (hmove 1 rfl hy).2 rfl with hdown | ⟨ht, hfloor⟩
      · exact .inr hdown.symm
      · exact .inl (hfloor.trans ht.symm)

end Sys2Proof.Machine
end

section
/-! T_FINE is read by no event and by no check (R8). -/

namespace Sys2Proof.Machine

variable {s t : State} {v : Nat}

/-- The same state under another T_FINE. -/
def withFinePeriod (v : Nat) (s : State) : State := { s with cfg := { s.cfg with tFine := v } }

theorem delivery_withFinePeriod (v : Nat) (s : State) : delivery (withFinePeriod v s) = delivery s := rfl

theorem exec_withFinePeriod_next {i : Instr} (hx : exec i s = .next t) :
    exec i (withFinePeriod v s) = .next (withFinePeriod v t) := by
  cases i with
  | fine => cases hx; rfl
  | reset => cases hx; rfl
  | poll p =>
    rcases exec_poll_next_cases hx with ⟨hf, rfl⟩ | ⟨hf, hw, rfl⟩ | ⟨hf, hw, d, hl, rfl⟩
    · exact exec_poll_of_noTick p hf
    · exact exec_poll_of_pacing (s := withFinePeriod v s) p hf hw
    · exact exec_poll_of_fadeStep (s := withFinePeriod v s) hf hw hl

theorem exec_withFinePeriod_refused {i : Instr} {why : Refusal} (hx : exec i s = .refused why) :
    exec i (withFinePeriod v s) = .refused why := by
  cases i with
  | fine => cases hx
  | reset => cases hx
  | poll p =>
    have hstep := exec_poll_refused_iff.1 hx
    exact exec_poll_refused_iff (s := withFinePeriod v s).2 hstep

/-- Settles O51: T_FINE is in no check of the delivery, and every event carries it along. -/
theorem finePeriodIsNeverRead : Obligations.FinePeriodIsNeverRead := by
  intro s v
  have hsame : delivery (withFinePeriod v s) = delivery s := delivery_withFinePeriod v s
  cases hd : delivery s with
  | refuse why =>
    rw [step_of_refuse hd]
    exact ⟨nofun, fun why' h => by cases h; exact step_of_refuse (hsame.trans hd)⟩
  | silence =>
    rw [step_of_silence hd]
    exact ⟨fun t h => by cases h; exact step_of_silence (hsame.trans hd), nofun⟩
  | event i rest =>
    have hstep : step (withFinePeriod v s) = exec i (withFinePeriod v (takeWord s rest)) :=
      step_of_event (hsame.trans hd)
    rw [step_of_event hd]
    exact ⟨fun t h => hstep.trans (exec_withFinePeriod_next h), fun why h => hstep.trans (exec_withFinePeriod_refused h)⟩

end Sys2Proof.Machine
end
